-- ==== Sys2Proof/Word.lean ====
section
/-! DEFINITION. The word types of the machine (00_scope.md R8, R10, R11): bytes, 16-bit words, register numbers and the
12-bit address field. -/

namespace Sys2Proof

/-- An 8-bit register, timer or memory byte (R8 `REG_BITS`, `TIMER_BITS`). -/
abbrev Byte := BitVec 8

/-- A 16-bit word: PC, I, a stack entry, an instruction word (R8 `PC_BITS`, `I_BITS`, `INSN_BITS`). -/
abbrev Word := BitVec 16

/-- A general register number, 0..15 (10_state.md R21: "indexed by a 4-bit field"). -/
abbrev Reg := Fin 16

/-- The address field `nnn` of an instruction, 12 bits (30_encoding.md R81). -/
abbrev Addr12 := BitVec 12

/-- VF is `V[15]`, the flag register (R12, 10_state.md R22). -/
abbrev vf : Reg := 15

end Sys2Proof
end

