-- ==== Sys2Proof/Syntax.lean ====
section
/-! DEFINITION. The instructions, one constructor for each of the 35 rows of spec/opcode_table.json, in the table's order,
with the fields the row names (30_encoding.md R81, R82, R88). -/

namespace Sys2Proof

/-- An instruction of the core. Register operands are numbers 0..15, immediates are unsigned bit fields (R83). -/
inductive Instr where
  /-- `00E0` CLS -/
  | cls
  /-- `00EE` RET -/
  | ret
  /-- `0nnn` SYS, the ignored legacy call; `nnn` is neither 0x0E0 nor 0x0EE (R85, WellFormed.lean) -/
  | sys (nnn : Addr12)
  /-- `1nnn` JP nnn -/
  | jp (nnn : Addr12)
  /-- `2nnn` CALL nnn -/
  | call (nnn : Addr12)
  /-- `3xkk` SE Vx, kk -/
  | seImm (x : Reg) (kk : Byte)
  /-- `4xkk` SNE Vx, kk -/
  | sneImm (x : Reg) (kk : Byte)
  /-- `5xy0` SE Vx, Vy; the low nibble is not examined (R86) -/
  | seReg (x y : Reg)
  /-- `6xkk` LD Vx, kk -/
  | ldImm (x : Reg) (kk : Byte)
  /-- `7xkk` ADD Vx, kk -/
  | addImm (x : Reg) (kk : Byte)
  /-- `8xy0` LD Vx, Vy -/
  | ldReg (x y : Reg)
  /-- `8xy1` OR Vx, Vy -/
  | orReg (x y : Reg)
  /-- `8xy2` AND Vx, Vy -/
  | andReg (x y : Reg)
  /-- `8xy3` XOR Vx, Vy -/
  | xorReg (x y : Reg)
  /-- `8xy4` ADD Vx, Vy with carry -/
  | addReg (x y : Reg)
  /-- `8xy5` SUB Vx, Vy -/
  | sub (x y : Reg)
  /-- `8xy6` SHR Vx; y is encoded and not read -/
  | shr (x y : Reg)
  /-- `8xy7` SUBN Vx, Vy -/
  | subn (x y : Reg)
  /-- `8xyE` SHL Vx; y is encoded and not read -/
  | shl (x y : Reg)
  /-- `9xy0` SNE Vx, Vy; the low nibble is not examined (R86) -/
  | sneReg (x y : Reg)
  /-- `Annn` LD I, nnn -/
  | ldI (nnn : Addr12)
  /-- `Bnnn` JP V0, nnn -/
  | jpV0 (nnn : Addr12)
  /-- `Cxkk` RND Vx, kk -/
  | rnd (x : Reg) (kk : Byte)
  /-- `Dxyn` DRW Vx, Vy, n; n is the row count 0..15 -/
  | drw (x y : Reg) (n : Fin 16)
  /-- `Ex9E` SKP Vx -/
  | skp (x : Reg)
  /-- `ExA1` SKNP Vx -/
  | sknp (x : Reg)
  /-- `Fx07` LD Vx, DT -/
  | ldVxDt (x : Reg)
  /-- `Fx0A` LD Vx, K -/
  | ldK (x : Reg)
  /-- `Fx15` LD DT, Vx -/
  | ldDtVx (x : Reg)
  /-- `Fx18` LD ST, Vx -/
  | ldStVx (x : Reg)
  /-- `Fx1E` ADD I, Vx -/
  | addI (x : Reg)
  /-- `Fx29` LD F, Vx -/
  | ldF (x : Reg)
  /-- `Fx33` LD B, Vx -/
  | ldB (x : Reg)
  /-- `Fx55` LD [I], Vx -/
  | ldMemStore (x : Reg)
  /-- `Fx65` LD Vx, [I] -/
  | ldMemLoad (x : Reg)
  deriving DecidableEq, Repr

end Sys2Proof
end

