-- ==== Sys2Proof/Decode.lean ====
section
/-! DEFINITION. The decoder, total on any bytes and rejecting by name (30_encoding.md R80 to R88), and after it the encoder,
written from the same patterns. Fields are read as numbers, `w[hi:lo]` of 00_scope.md R10. -/

namespace Sys2Proof

/-- Why no instruction is read (30_encoding.md R87); the core raises DecodeError for each undefined word. -/
inductive Reject where
  /-- `8xyN` with an undefined function nibble -/
  | familyEight
  /-- `ExKK` with an undefined low byte -/
  | familyE
  /-- `FxKK` with an undefined low byte -/
  | familyF
  /-- fewer than two bytes; the core's fetch never gives this (40_cycle.md R101) -/
  | truncated
  deriving DecidableEq, Repr

/-- `w[hi:lo]`, the bits hi down to lo read as an unsigned number (00_scope.md R10). -/
def field (w : Word) (hi lo : Nat) : Nat := w.toNat / 2 ^ lo % 2 ^ (hi - lo + 1)

/-- `x`, bits 11..8 (R81). -/
def fieldX (w : Word) : Reg := Fin.ofNat 16 (field w 11 8)

/-- `y`, bits 7..4 (R81). -/
def fieldY (w : Word) : Reg := Fin.ofNat 16 (field w 7 4)

/-- `n`, bits 3..0 (R81). -/
def fieldN (w : Word) : Fin 16 := Fin.ofNat 16 (field w 3 0)

/-- `kk`, bits 7..0 (R81). -/
def fieldKk (w : Word) : Byte := BitVec.ofNat 8 (field w 7 0)

/-- `nnn`, bits 11..0 (R81). -/
def fieldNnn (w : Word) : Addr12 := BitVec.ofNat 12 (field w 11 0)

/-- Family 0 (R85): 0x00E0 and 0x00EE match on all 16 bits, every other word is SYS. -/
def decodeFamily0 (w : Word) : Instr :=
  if w = 0x00E0#16 then .cls else if w = 0x00EE#16 then .ret else .sys (fieldNnn w)

/-- Family 8 (R84): the function is the low nibble. -/
def decodeFamily8 (w : Word) : Except Reject Instr :=
  match field w 3 0 with
  | 0x0 => .ok (.ldReg (fieldX w) (fieldY w))
  | 0x1 => .ok (.orReg (fieldX w) (fieldY w))
  | 0x2 => .ok (.andReg (fieldX w) (fieldY w))
  | 0x3 => .ok (.xorReg (fieldX w) (fieldY w))
  | 0x4 => .ok (.addReg (fieldX w) (fieldY w))
  | 0x5 => .ok (.sub (fieldX w) (fieldY w))
  | 0x6 => .ok (.shr (fieldX w) (fieldY w))
  | 0x7 => .ok (.subn (fieldX w) (fieldY w))
  | 0xE => .ok (.shl (fieldX w) (fieldY w))
  | _ => .error .familyEight

/-- Family E (R84): the function is the low byte. -/
def decodeFamilyE (w : Word) : Except Reject Instr :=
  match field w 7 0 with
  | 0x9E => .ok (.skp (fieldX w))
  | 0xA1 => .ok (.sknp (fieldX w))
  | _ => .error .familyE

/-- Family F (R84): the function is the low byte. -/
def decodeFamilyF (w : Word) : Except Reject Instr :=
  match field w 7 0 with
  | 0x07 => .ok (.ldVxDt (fieldX w))
  | 0x0A => .ok (.ldK (fieldX w))
  | 0x15 => .ok (.ldDtVx (fieldX w))
  | 0x18 => .ok (.ldStVx (fieldX w))
  | 0x1E => .ok (.addI (fieldX w))
  | 0x29 => .ok (.ldF (fieldX w))
  | 0x33 => .ok (.ldB (fieldX w))
  | 0x55 => .ok (.ldMemStore (fieldX w))
  | 0x65 => .ok (.ldMemLoad (fieldX w))
  | _ => .error .familyF

/-- The decode procedure of R84 on one instruction word: the top nibble selects a family; families 0, 8, E and F
decide further. Families 5 and 9 do not examine the low nibble (R86). -/
def decodeWord (w : Word) : Except Reject Instr :=
  match field w 15 12 with
  | 0x0 => .ok (decodeFamily0 w)
  | 0x1 => .ok (.jp (fieldNnn w))
  | 0x2 => .ok (.call (fieldNnn w))
  | 0x3 => .ok (.seImm (fieldX w) (fieldKk w))
  | 0x4 => .ok (.sneImm (fieldX w) (fieldKk w))
  | 0x5 => .ok (.seReg (fieldX w) (fieldY w))
  | 0x6 => .ok (.ldImm (fieldX w) (fieldKk w))
  | 0x7 => .ok (.addImm (fieldX w) (fieldKk w))
  | 0x8 => decodeFamily8 w
  | 0x9 => .ok (.sneReg (fieldX w) (fieldY w))
  | 0xA => .ok (.ldI (fieldNnn w))
  | 0xB => .ok (.jpV0 (fieldNnn w))
  | 0xC => .ok (.rnd (fieldX w) (fieldKk w))
  | 0xD => .ok (.drw (fieldX w) (fieldY w) (fieldN w))
  | 0xE => decodeFamilyE w
  | _ => decodeFamilyF w     -- 0xF, the last value of a nibble

/-- The word of two bytes in memory order, big-endian (20_memory.md R64, 40_cycle.md R101). -/
def wordOfBytes (hi lo : Byte) : Word := BitVec.ofNat 16 (hi.toNat * 256 + lo.toNat)

/-- The decoder on bytes: one instruction and the bytes after it. Every instruction is two bytes (R80). -/
def decode : List Byte → Except Reject (Instr × List Byte)
  | hi :: lo :: rest =>
    match decodeWord (wordOfBytes hi lo) with
    | .ok i => .ok (i, rest)
    | .error e => .error e
  | _ => .error .truncated

/-! The encoder. A pattern such as `8xy4` of R82 is a number whose hex digits are its nibbles. -/

/-- Format A, `oooo nnnn nnnn nnnn`. -/
def encodeA (op : Nat) (nnn : Addr12) : Word := BitVec.ofNat 16 (op * 0x1000 + nnn.toNat)

/-- Format XK, `oooo xxxx kkkk kkkk`; format X is the same with a function byte for kk. -/
def encodeXK (op : Nat) (x : Reg) (kk : Byte) : Word :=
  BitVec.ofNat 16 (op * 0x1000 + x.val * 0x100 + kk.toNat)

/-- Formats XY and XYN, `oooo xxxx yyyy ffff`. -/
def encodeXY (op : Nat) (x y : Reg) (f : Fin 16) : Word :=
  BitVec.ofNat 16 (op * 0x1000 + x.val * 0x100 + y.val * 0x10 + f.val)

/-- The word of an instruction, from the encodings of R82 and of each instruction's rule. `5xy0` and `9xy0` are
encoded with a zero low nibble, as their patterns spell it (log 26). -/
def encode : Instr → Word
  | .cls => 0x00E0#16
  | .ret => 0x00EE#16
  | .sys nnn => encodeA 0x0 nnn
  | .jp nnn => encodeA 0x1 nnn
  | .call nnn => encodeA 0x2 nnn
  | .seImm x kk => encodeXK 0x3 x kk
  | .sneImm x kk => encodeXK 0x4 x kk
  | .seReg x y => encodeXY 0x5 x y 0x0
  | .ldImm x kk => encodeXK 0x6 x kk
  | .addImm x kk => encodeXK 0x7 x kk
  | .ldReg x y => encodeXY 0x8 x y 0x0
  | .orReg x y => encodeXY 0x8 x y 0x1
  | .andReg x y => encodeXY 0x8 x y 0x2
  | .xorReg x y => encodeXY 0x8 x y 0x3
  | .addReg x y => encodeXY 0x8 x y 0x4
  | .sub x y => encodeXY 0x8 x y 0x5
  | .shr x y => encodeXY 0x8 x y 0x6
  | .subn x y => encodeXY 0x8 x y 0x7
  | .shl x y => encodeXY 0x8 x y 0xE
  | .sneReg x y => encodeXY 0x9 x y 0x0
  | .ldI nnn => encodeA 0xA nnn
  | .jpV0 nnn => encodeA 0xB nnn
  | .rnd x kk => encodeXK 0xC x kk
  | .drw x y n => encodeXY 0xD x y n
  | .skp x => encodeXK 0xE x 0x9E#8
  | .sknp x => encodeXK 0xE x 0xA1#8
  | .ldVxDt x => encodeXK 0xF x 0x07#8
  | .ldK x => encodeXK 0xF x 0x0A#8
  | .ldDtVx x => encodeXK 0xF x 0x15#8
  | .ldStVx x => encodeXK 0xF x 0x18#8
  | .addI x => encodeXK 0xF x 0x1E#8
  | .ldF x => encodeXK 0xF x 0x29#8
  | .ldB x => encodeXK 0xF x 0x33#8
  | .ldMemStore x => encodeXK 0xF x 0x55#8
  | .ldMemLoad x => encodeXK 0xF x 0x65#8

/-- The high byte of a word, the one at the lower address (20_memory.md R64). -/
def hiByte (w : Word) : Byte := BitVec.ofNat 8 (w.toNat / 256)

/-- The low byte of a word. -/
def loByte (w : Word) : Byte := BitVec.ofNat 8 w.toNat

/-- The instruction word of a row of the opcode table given as a number of `nbits` bits: one 16-bit word, bit 0 its least
significant; bits above `nbits` are 0. -/
def tableWord (nbits w : Nat) : Word := BitVec.ofNat 16 (w % 2 ^ nbits)

/-- What the decoder reads from the table's word, laid out in memory as the hardware stores it. -/
def decodeTableWord (nbits w : Nat) : Option Instr :=
  match decode [hiByte (tableWord nbits w), loByte (tableWord nbits w)] with
  | .ok (i, _) => some i
  | .error _ => none

end Sys2Proof
end

