-- ==== Sys2Proof/Config.lean ====
section
/-! DEFINITION. What is fixed for one machine (00_scope.md R3, R9) and the free values: the step inputs the spec leaves
open. The parameters' default VALUES (program start, font) stand in Sys2Proof/Machine/Params.lean. -/

namespace Sys2Proof

/-- The program-start variant (00_scope.md R3, 10_state.md R28). -/
inductive Variant where
  | normal
  | eti
  deriving DecidableEq, Repr

/-- `VF_ORDER`: whether the second statement of `8xy5`, `8xy6`, `8xy7` and `8xyE` reads the registers after or before
the VF write of the first (42_alu.md R141). -/
inductive VfOrder where
  | sequential
  | snapshot
  deriving DecidableEq, Repr

/-- Free value: the key snapshot of a step whose inputs the host has not lined up (10_state.md R44, D20). No body, so
nothing can be proved of its value; the argument is the state's `tick`. DESIGN CHOICE (log 2), safe. -/
opaque Config.freeKeys : Nat → BitVec 16

/-- Free value: the random byte of such a step (10_state.md R45, D21: "any of the 256 values, and claims hold for every
value"). DESIGN CHOICE (log 2), safe. -/
opaque Config.freeRnd : Nat → Byte

end Sys2Proof
end

