-- ==== Sys2Proof/Machine/Params.lean ====
section
/-! DEFINITION. The values of the model's parameters on this hardware (00_scope.md R8, R9): sizes, the program start of each
variant and the default font. They stand here, not in Config.lean, so that a later repair may mend a value. -/

namespace Sys2Proof.Machine

/-- `MEM_SIZE` (R8). -/
def memSize : Nat := 4096

/-- `STACK_CAPACITY` (R8, 90_conflicts.md C3). -/
def stackCapacity : Nat := 16

/-- `PROGRAM_START` of a variant (10_state.md R28). -/
def programStart : Variant → Word
  | .normal => 0x0200#16
  | .eti => 0x0600#16

/-- The default `FONT`, glyphs 0 to 7 (10_state.md R37; PRESUMED, log 7: "from general knowledge, not in source"). -/
def glyphsLow : List Byte :=
  [0xF0, 0x90, 0x90, 0x90, 0xF0] ++ [0x20, 0x60, 0x20, 0x20, 0x70] ++
  [0xF0, 0x10, 0xF0, 0x80, 0xF0] ++ [0xF0, 0x10, 0xF0, 0x10, 0xF0] ++
  [0x90, 0x90, 0xF0, 0x10, 0x10] ++ [0xF0, 0x80, 0xF0, 0x10, 0xF0] ++
  [0xF0, 0x80, 0xF0, 0x90, 0xF0] ++ [0xF0, 0x10, 0x20, 0x40, 0x40]

/-- The default `FONT`, glyphs 8 to F (10_state.md R37; PRESUMED, log 7). -/
def glyphsHigh : List Byte :=
  [0xF0, 0x90, 0xF0, 0x90, 0xF0] ++ [0xF0, 0x90, 0xF0, 0x10, 0xF0] ++
  [0xF0, 0x90, 0xF0, 0x90, 0x90] ++ [0xE0, 0x90, 0xE0, 0x90, 0xE0] ++
  [0xF0, 0x80, 0x80, 0x80, 0xF0] ++ [0xE0, 0x90, 0x90, 0x90, 0xE0] ++
  [0xF0, 0x80, 0xF0, 0x80, 0xF0] ++ [0xF0, 0x80, 0xF0, 0x80, 0x80]

/-- The default `FONT`: 80 bytes, glyph d at bytes 5d .. 5d+4 (R37). -/
def defaultFont : List Byte := glyphsLow ++ glyphsHigh

end Sys2Proof.Machine
end

