-- ==== Sys2Proof/Machine/State.lean ====
section
/-! DEFINITION. The architectural state (10_state.md R20 to R36) as plain data, the outcomes a step can have besides a next
state, and the state after reset (70_reset_and_hazards.md R260). -/

namespace Sys2Proof.Machine

/-- The three fatal errors of the core (10_state.md R32, 60_exceptions.md R232 to R234). They are latched in `State.fault`
and leave a next state; they are not outcomes of a step (log 1). -/
inductive FaultKind where
  /-- the fetched word matches no instruction; raised by the step itself -/
  | decodeError
  /-- raised by `2nnn` with SP = 16 -/
  | stackOverflow
  /-- raised by `00EE` with SP = 0 -/
  | stackUnderflow
  deriving DecidableEq, Repr

/-- The fault latch's record (R32): the kind, the PC of the faulting instruction and its word. -/
structure FaultRecord where
  kind : FaultKind
  pc : Word
  word : Word
  deriving DecidableEq, Repr

/-- The inputs of one step (R40): the key snapshot (bit k is key k) and the random byte. -/
structure StepInput where
  keys : BitVec 16
  rnd : Byte
  deriving DecidableEq, Repr

/-- The framebuffer (R30): 32 rows of 64 pixels, true is lit. -/
abbrev Framebuffer := Vector (Vector Bool 64) 32

/-- Memory as the listed bytes that differ from the reset contents, addresses rising (see Machine/Memory.lean). -/
abbrev Memory := List Host.Cell

/-- Everything the spec gives the core (R20, R34), the parameter `VF_ORDER` (00_scope.md R9), and the model's own fields
for the inputs of steps (log 2, log 3). -/
structure State where
  /-- `V[0..15]` (R21) -/
  v : Vector Byte 16
  /-- `PC` (R23) -/
  pc : Word
  /-- `I` (R24) -/
  i : Word
  /-- `STACK[0..15]` (R25) -/
  stack : Vector Word 16
  /-- `SP`, 0..16 (R25) -/
  sp : Fin 17
  /-- `DT` (R26) -/
  dt : Byte
  /-- `ST` (R27) -/
  st : Byte
  /-- `MEM` (R29) -/
  mem : Memory
  /-- `FB` (R30) -/
  fb : Framebuffer
  /-- `KEYS`, the snapshot sampled by the current step, bit k for key k (R31, R44) -/
  keys : BitVec 16
  /-- `FAULT` (R32) -/
  fault : Option FaultRecord
  /-- `VARIANT` (R28), set by Reset only -/
  variant : Variant
  /-- `VF_ORDER` (00_scope.md R9, 42_alu.md R141), a parameter; nothing changes it (log 5) -/
  vfOrder : VfOrder
  /-- the model's own: the random byte of the current step (R45; log 3) -/
  rnd : Byte
  /-- the model's own: the inputs lined up for the coming steps, the next one first (log 2) -/
  inputs : List StepInput
  /-- the model's own: names the next free input (log 2) -/
  tick : Nat
  deriving DecidableEq, Repr

/-- Fault outcomes of a step. There are none: every fatal error of the spec leaves a state with FAULT latched
(60_exceptions.md R231), which is a next state, so nothing raises a fault outcome. Safe (log 1). -/
inductive Fault where
  deriving DecidableEq, Repr

/-- Refusals of a step. -/
inductive Refusal where
  /-- raised by `exec` for an instruction that has no meaning yet; no arm of exec raises it now. Safe. -/
  | notModelled (mnemonic : String)
  deriving DecidableEq, Repr

/-- The state after `Reset(Normal)` with the default parameters (70_reset_and_hazards.md R260, 00_scope.md R9): every value
is the spec's, but those of the model's own fields `rnd`, `inputs` and `tick` (DESIGN CHOICE, log 3). Memory lists nothing:
it reads as the reset contents, the font and zeros. -/
def State.reset : State where
  v := Vector.replicate 16 0
  pc := programStart .normal
  i := 0
  stack := Vector.replicate 16 0
  sp := 0
  dt := 0
  st := 0
  mem := []
  fb := Vector.replicate 32 (Vector.replicate 64 false)
  keys := 0
  fault := none
  variant := .normal
  vfOrder := .sequential
  rnd := 0
  inputs := []
  tick := 0

end Sys2Proof.Machine
end

