-- ==== Sys2Proof/Machine/Memory.lean ====
section
/-! DEFINITION. MEM (20_memory.md R60 to R68): what an unlisted address reads as, reading and writing one byte, and the
canonical form. Addresses here are physical, below 4096; the translator stands in Ops.lean. -/

namespace Sys2Proof.Machine

/-- The reset contents of an address (10_state.md R29): the font at 0x000..0x04F, 0 elsewhere. An address that memory does
not list reads as this. -/
def resetByte (a : Nat) : Byte := (defaultFont[a]?).getD 0

/-- The byte at an address: the listed one, or the reset contents. -/
def Memory.read : Memory → Nat → Byte
  | [], a => resetByte a
  | (b, u) :: m, a => if b = a then u else Memory.read m a

/-- No longer list an address. -/
def Memory.erase : Memory → Nat → Memory
  | [], _ => []
  | (b, u) :: m, a => if b = a then Memory.erase m a else (b, u) :: Memory.erase m a

/-- List a byte at its place in rising order. -/
def Memory.insert : Memory → Nat → Byte → Memory
  | [], a, x => [(a, x)]
  | (b, u) :: m, a, x => if a < b then (a, x) :: (b, u) :: m else (b, u) :: Memory.insert m a x

/-- Write one byte. Writing what the address reads as at reset removes its entry, so equal memories are equal data. -/
def Memory.write (m : Memory) (a : Nat) (x : Byte) : Memory :=
  if x = resetByte a then Memory.erase m a else Memory.insert (Memory.erase m a) a x

/-- Write bytes at rising addresses from `a` on; a byte whose address is above `last` is dropped (the load port,
10_state.md R42). -/
def Memory.writeUpTo (last : Nat) : Memory → Nat → List Byte → Memory
  | m, _, [] => m
  | m, a, x :: xs =>
    Memory.writeUpTo last (if a ≤ last then Memory.write m a x else m) (a + 1) xs

/-- Canonical form from address `from` on: addresses strictly rising, inside the address space, and no entry equal to the
reset contents. -/
def Memory.wfFrom (start : Nat) : Memory → Bool
  | [] => true
  | (a, x) :: m =>
    decide (start ≤ a) && decide (a < memSize) && decide (x ≠ resetByte a) && Memory.wfFrom (a + 1) m

/-- The canonical form of memory. -/
def Memory.wf (m : Memory) : Bool := Memory.wfFrom 0 m

end Sys2Proof.Machine
end

