-- ==== Sys2Proof/Machine/Ops.lean ====
section
/-! DEFINITION. The named operations over the state: registers, PC, the memory port with its translator, the call stack,
the framebuffer, the phases of a step before execution, and raising a fault. -/

namespace Sys2Proof.Machine

/-- What an instruction's meaning answers. -/
abbrev Result := Host.Outcome State Fault Refusal

/-! Registers and PC. -/

/-- `V[x]` (10_state.md R21). -/
def State.reg (s : State) (x : Reg) : Byte := s.v[x.val]

/-- `V[x] <- b`. -/
def State.setReg (s : State) (x : Reg) (b : Byte) : State := { s with v := s.v.set x.val b }

/-- `PC <- a` (R23). -/
def State.setPc (s : State) (a : Word) : State := { s with pc := a }

/-- `advance`: `PC <- trunc_16(PC + 2)` (00_scope.md R13, 40_cycle.md R102). -/
def State.advance (s : State) : State := s.setPc (s.pc + 2)

/-- `skip_if(c)`: +4 if c holds, else +2 (00_scope.md R13). -/
def State.skipIf (s : State) (c : Bool) : State := s.setPc (if c then s.pc + 4 else s.pc + 2)

/-- `I <- a` (10_state.md R24). -/
def State.setI (s : State) (a : Word) : State := { s with i := a }

/-- `DT <- b` (R26). -/
def State.setDt (s : State) (b : Byte) : State := { s with dt := b }

/-- `ST <- b` (R27). -/
def State.setSt (s : State) (b : Byte) : State := { s with st := b }

/-! The memory port. -/

/-- The translator (20_memory.md R61): every access uses the address modulo 4096. -/
def translate (a : Nat) : Nat := a % memSize

/-- `MemRead(a, 1)` (00_scope.md R13). -/
def State.memRead (s : State) (a : Nat) : Byte := Memory.read s.mem (translate a)

/-- `MemWrite(a, 1, x)` (R13). No address is protected (20_memory.md R62). -/
def State.memWrite (s : State) (a : Nat) (x : Byte) : State :=
  { s with mem := Memory.write s.mem (translate a) x }

/-- `Fetch(PC)`: the byte at PC, high, and the byte at trunc_16(PC + 1), low (40_cycle.md R101). PC is unchanged. -/
def State.fetchWord (s : State) : Word :=
  wordOfBytes (s.memRead s.pc.toNat) (s.memRead (s.pc + 1).toNat)

/-! The call stack (10_state.md R25). -/

/-- `STACK[k]`. -/
def State.stackEntry (s : State) (k : Fin 16) : Word := s.stack[k.val]

/-- `STACK[SP] <- a; SP <- SP + 1`, for SP < 16. -/
def State.push (s : State) (a : Word) : State :=
  { s with stack := s.stack.setIfInBounds s.sp.val a, sp := Fin.ofNat 17 (s.sp.val + 1) }

/-- The entry a pop reads, `STACK[SP - 1]`, for SP > 0. -/
def State.top (s : State) : Word := s.stackEntry (Fin.ofNat 16 (s.sp.val - 1))

/-- `SP <- SP - 1`; the entry keeps its value (R25). -/
def State.pop (s : State) : State := { s with sp := Fin.ofNat 17 (s.sp.val - 1) }

/-! The framebuffer (10_state.md R30). -/

/-- `FB[r][c]`. -/
def Framebuffer.pixel (fb : Framebuffer) (r : Fin 32) (c : Fin 64) : Bool := fb[r.val][c.val]

/-- `FB[r][c] <- b`. -/
def Framebuffer.setPixel (fb : Framebuffer) (r : Fin 32) (c : Fin 64) (b : Bool) : Framebuffer :=
  fb.set r.val (fb[r.val].set c.val b)

/-- Every pixel unlit. -/
def Framebuffer.clear : Framebuffer := Vector.replicate 32 (Vector.replicate 64 false)

/-- Replace the framebuffer. -/
def State.setFb (s : State) (fb : Framebuffer) : State := { s with fb := fb }

/-! The phases of a step before execution (40_cycle.md R100). -/

/-- The inputs of the next step: the lined-up ones, or free values (10_state.md R44, R45; log 2). -/
def State.nextInput (s : State) : StepInput :=
  match s.inputs with
  | inp :: _ => inp
  | [] => { keys := Config.freeKeys s.tick, rnd := Config.freeRnd s.tick }

/-- `KEYS <- keys`, and the step's random byte is held for `Cxkk` (R44, R45). -/
def State.sampleInputs (s : State) : State :=
  { s with
    keys := s.nextInput.keys
    rnd := s.nextInput.rnd
    inputs := s.inputs.tail
    tick := if s.inputs.isEmpty then s.tick + 1 else s.tick }

/-- One count of a timer: a nonzero timer goes down by one, a timer at zero stays (40_cycle.md R103). -/
def timerDown (t : Byte) : Byte := if t = 0 then 0 else t - 1

/-- Phase (b): both timers count down (R103). -/
def State.countdown (s : State) : State := { s with dt := timerDown s.dt, st := timerDown s.st }

/-- The state in which the instruction of a step executes: inputs sampled, timers counted down, PC still at the
instruction (R100, R102). -/
def State.beforeExec (s : State) : State := s.sampleInputs.countdown

/-! Faults. -/

/-- `raise Fault(kind, (PC, word))` (60_exceptions.md R231): the latch is set and nothing else changes; the step's timer
countdown and key sample stand because they came before. There is no return from a fault (R239); only Reset clears the
latch (`State.resetWith` in Ports.lean). -/
def State.raiseFault (s : State) (kind : FaultKind) (word : Word) : State :=
  { s with fault := some { kind := kind, pc := s.pc, word := word } }

end Sys2Proof.Machine
end

