-- ==== Sys2Proof/Machine/Flags.lean ====
section
/-! DEFINITION. The values written to VF (10_state.md R33), from the operands as unsigned numbers (00_scope.md R11). -/

namespace Sys2Proof.Machine

/-- `bool01(c)` (R11). -/
def bool01 (c : Bool) : Byte := if c then 1 else 0

/-- The carry out of `a + b` (`8xy4`, 42_alu.md R148). -/
def carryFlag (a b : Byte) : Byte := bool01 (decide (a.toNat + b.toNat > 255))

/-- 1 if a > b, strictly (`8xy5` with a = V[x]; `8xy7` with a = V[y]; R149, R151, log 20). -/
def greaterFlag (a b : Byte) : Byte := bool01 (decide (a.toNat > b.toNat))

/-- Bit 0, shifted out by `8xy6` (R150). -/
def lowBit (a : Byte) : Byte := a &&& 1

/-- Bit 7, shifted out by `8xyE` (R152). -/
def highBit (a : Byte) : Byte := a >>> 7

/-- Write the flag, then the result, as `8xy5`, `8xy6`, `8xy7` and `8xyE` do in the order `VF_ORDER` selects (R141).
`flag` and `result` compute from V[x] and V[y]. In both orders V[x] is written last, so with x = 15 VF holds the result. -/
def State.flagThenResult (s : State) (x y : Reg) (flag result : Byte → Byte → Byte) : State :=
  match s.vfOrder with
  | .sequential =>
    let s1 := s.setReg vf (flag (s.reg x) (s.reg y))
    s1.setReg x (result (s1.reg x) (s1.reg y))
  | .snapshot =>
    let a := s.reg x
    let b := s.reg y
    (s.setReg vf (flag a b)).setReg x (result a b)

end Sys2Proof.Machine
end

