-- ==== Sys2Proof/Machine/Alu.lean ====
section
/-! DEFINITION. Register loads and arithmetic-logic instructions (42_alu.md R140 to R153). Results wrap to 8 bits; every
instruction ends with the advance of PC and none can fault. -/

namespace Sys2Proof.Machine

/-- `6xkk` LD (R142). -/
def execLdImm (x : Reg) (kk : Byte) (s : State) : Result := .next (s.setReg x kk).advance

/-- `7xkk` ADD (R143): no flag. -/
def execAddImm (x : Reg) (kk : Byte) (s : State) : Result := .next (s.setReg x (s.reg x + kk)).advance

/-- `8xy0` LD (R144). -/
def execLdReg (x y : Reg) (s : State) : Result := .next (s.setReg x (s.reg y)).advance

/-- `8xy1` OR (R145): VF is not written but as the destination. -/
def execOr (x y : Reg) (s : State) : Result := .next (s.setReg x (s.reg x ||| s.reg y)).advance

/-- `8xy2` AND (R146). -/
def execAnd (x y : Reg) (s : State) : Result := .next (s.setReg x (s.reg x &&& s.reg y)).advance

/-- `8xy3` XOR (R147). -/
def execXor (x y : Reg) (s : State) : Result := .next (s.setReg x (s.reg x ^^^ s.reg y)).advance

/-- `8xy4` ADD (R148): the sum is computed before any write, then VF gets the carry, then V[x] the low 8 bits. -/
def execAddReg (x y : Reg) (s : State) : Result :=
  .next ((s.setReg vf (carryFlag (s.reg x) (s.reg y))).setReg x (s.reg x + s.reg y)).advance

/-- `8xy5` SUB (R149): VF = 1 if V[x] > V[y]. -/
def execSub (x y : Reg) (s : State) : Result :=
  .next (s.flagThenResult x y greaterFlag (fun a b => a - b)).advance

/-- `8xy6` SHR (R150): the operand is V[x]; y is not read. -/
def execShr (x _y : Reg) (s : State) : Result :=
  .next (s.flagThenResult x x (fun a _ => lowBit a) (fun a _ => a >>> 1)).advance

/-- `8xy7` SUBN (R151): VF = 1 if V[y] > V[x]. -/
def execSubn (x y : Reg) (s : State) : Result :=
  .next (s.flagThenResult x y (fun a b => greaterFlag b a) (fun a b => b - a)).advance

/-- `8xyE` SHL (R152): the operand is V[x]; y is not read. -/
def execShl (x _y : Reg) (s : State) : Result :=
  .next (s.flagThenResult x x (fun a _ => highBit a) (fun a _ => a <<< 1)).advance

/-- `Cxkk` RND (R153): the step's random byte, masked. -/
def execRnd (x : Reg) (kk : Byte) (s : State) : Result := .next (s.setReg x (s.rnd &&& kk)).advance

end Sys2Proof.Machine
end

