-- ==== Sys2Proof/Machine/Operands.lean ====
section
/-! DEFINITION. Operand forms: zero extension of immediates (30_encoding.md R83), I-relative addresses
(43_index_memory.md R170), the key index, the glyph address and the decimal digits. -/

namespace Sys2Proof.Machine

/-- `zext_16(nnn)` (R83). -/
def zextAddr (nnn : Addr12) : Word := nnn.setWidth 16

/-- `zext_16(V[x])`. -/
def zextByte (b : Byte) : Word := b.setWidth 16

/-- The address of byte k of an I-relative access, `I + k`, exact; the translator reduces it (R170, 20_memory.md R61). -/
def State.effAddr (s : State) (k : Nat) : Nat := s.i.toNat + k

/-- The key index of `Ex9E` and `ExA1`, `V[x] mod 16` (45_keys_timers.md R210). -/
def keyIndex (b : Byte) : Nat := b.toNat % 16

/-- `KEYS[k] == 1`: key k is pressed in this step's snapshot (10_state.md R31). -/
def State.keyPressed (s : State) (k : Nat) : Bool := s.keys.getLsbD k

/-- The lowest pressed key at index k or above, looking at n keys (45_keys_timers.md R213). -/
def State.firstKeyFrom (s : State) : Nat → Nat → Option Nat
  | 0, _ => none
  | n + 1, k => if s.keyPressed k then some k else s.firstKeyFrom n (k + 1)

/-- The lowest pressed key of 0..15, if any (R213). -/
def State.firstKey (s : State) : Option Nat := s.firstKeyFrom 16 0

/-- `V[x] × 5`, the glyph address of `Fx29`; at most 1275 (43_index_memory.md R173). -/
def glyphAddr (b : Byte) : Word := BitVec.ofNat 16 (b.toNat * 5)

/-- `v div 100` (R174). -/
def hundredsDigit (b : Byte) : Byte := BitVec.ofNat 8 (b.toNat / 100)

/-- `(v div 10) mod 10` (R174). -/
def tensDigit (b : Byte) : Byte := BitVec.ofNat 8 (b.toNat / 10 % 10)

/-- `v mod 10` (R174). -/
def onesDigit (b : Byte) : Byte := BitVec.ofNat 8 (b.toNat % 10)

/-- The number of a general register given as a natural number below 16. -/
def regOf (k : Nat) : Reg := Fin.ofNat 16 k

end Sys2Proof.Machine
end

