-- ==== Sys2Proof/Machine/ControlFlow.lean ====
section
/-! DEFINITION. The control-flow instructions (41_control_flow.md R120 to R129). Each sets the next PC itself
(40_cycle.md R102); none writes VF. -/

namespace Sys2Proof.Machine

/-- `00EE` RET (R121): StackUnderflow when SP = 0; else pop, and PC is the popped address plus 2. -/
def execRet (s : State) : Result :=
  if s.sp.val = 0 then .next (s.raiseFault .stackUnderflow (encode .ret))
  else .next (s.pop.setPc (s.top + 2))

/-- `0nnn` SYS (R122): no effect but the advance; nnn is ignored. -/
def execSys (_nnn : Addr12) (s : State) : Result := .next s.advance

/-- `1nnn` JP (R123). -/
def execJp (nnn : Addr12) (s : State) : Result := .next (s.setPc (zextAddr nnn))

/-- `2nnn` CALL (R124): StackOverflow when SP = 16; else push the address of the CALL itself and jump. The word of the fault
record is this instruction's own word (log 16). -/
def execCall (nnn : Addr12) (s : State) : Result :=
  if s.sp.val = stackCapacity then .next (s.raiseFault .stackOverflow (encode (.call nnn)))
  else .next ((s.push s.pc).setPc (zextAddr nnn))

/-- `3xkk` SE (R125). -/
def execSeImm (x : Reg) (kk : Byte) (s : State) : Result := .next (s.skipIf (s.reg x == kk))

/-- `4xkk` SNE (R126). -/
def execSneImm (x : Reg) (kk : Byte) (s : State) : Result := .next (s.skipIf (s.reg x != kk))

/-- `5xy0` SE (R127). -/
def execSeReg (x y : Reg) (s : State) : Result := .next (s.skipIf (s.reg x == s.reg y))

/-- `9xy0` SNE (R128). -/
def execSneReg (x y : Reg) (s : State) : Result := .next (s.skipIf (s.reg x != s.reg y))

/-- `Bnnn` JP V0 (R129): the sum is not reduced modulo 4096. -/
def execJpV0 (nnn : Addr12) (s : State) : Result :=
  .next (s.setPc (zextAddr nnn + zextByte (s.reg 0)))

end Sys2Proof.Machine
end

