-- ==== Sys2Proof/Machine/Display.lean ====
section
/-! DEFINITION. The display instructions and the sprite XOR engine (44_display.md R190 to R194). -/

namespace Sys2Proof.Machine

/-- What the sprite engine carries from pixel to pixel: the framebuffer and the collision seen so far (R191). -/
structure Canvas where
  fb : Framebuffer
  collision : Bool
  deriving DecidableEq, Repr

/-- One pixel of a draw (R191): XOR the sprite bit into the pixel; a lit pixel under a 1-bit is a collision, and the
collision is never cleared again. -/
def Canvas.xorPixel (cv : Canvas) (r : Fin 32) (c : Fin 64) (bit : Bool) : Canvas :=
  { fb := cv.fb.setPixel r c (cv.fb.pixel r c ^^ bit)
    collision := cv.collision || (cv.fb.pixel r c && bit) }

/-- The framebuffer row of sprite row i, `(cy + i) mod 32` (R191). -/
def spriteRow (cy : Byte) (i : Nat) : Fin 32 := Fin.ofNat 32 (cy.toNat + i)

/-- The framebuffer column of sprite column j, `(cx + j) mod 64` (R191). -/
def spriteCol (cx : Byte) (j : Nat) : Fin 64 := Fin.ofNat 64 (cx.toNat + j)

/-- Column j of a sprite row is bit 7 - j of its byte (R193; log 17). -/
def spriteBit (rowBits : Byte) (j : Nat) : Bool := rowBits.getLsbD (7 - j)

/-- The first n columns of one sprite row, in order (R191). -/
def Canvas.drawCols (cv : Canvas) (r : Fin 32) (cx rowBits : Byte) : Nat → Canvas
  | 0 => cv
  | j + 1 => (cv.drawCols r cx rowBits j).xorPixel r (spriteCol cx j) (spriteBit rowBits j)

/-- The first n rows of a sprite whose row i is the byte `rows i`, in order (R191). -/
def Canvas.drawRows (cv : Canvas) (cx cy : Byte) (rows : Nat → Byte) : Nat → Canvas
  | 0 => cv
  | i + 1 => (cv.drawRows cx cy rows i).drawCols (spriteRow cy i) cx (rows i) 8

/-- The draw of n sprite rows at I over the state's framebuffer, coordinates V[x] and V[y] (R191). -/
def State.drawSprite (s : State) (x y : Reg) (n : Nat) : Canvas :=
  (Canvas.mk s.fb false).drawRows (s.reg x) (s.reg y) (fun k => s.memRead (s.effAddr k)) n

/-- `00E0` CLS (R190). -/
def execCls (s : State) : Result := .next (s.setFb Framebuffer.clear).advance

/-- `Dxyn` DRW (R191): the coordinates are read before VF is written; VF is always written, with n = 0 too (R192). -/
def execDrw (x y : Reg) (n : Fin 16) (s : State) : Result :=
  .next ((s.setFb (s.drawSprite x y n.val).fb).setReg vf
    (bool01 (s.drawSprite x y n.val).collision)).advance

end Sys2Proof.Machine
end

