-- ==== Sys2Proof/Machine/IndexMemory.lean ====
section
/-! DEFINITION. The address register and the memory-block instructions (43_index_memory.md R170 to R176). `Fx33`, `Fx55`
and `Fx65` leave I unchanged; none of the family can fault. -/

namespace Sys2Proof.Machine

/-- `Annn` LD I (R171). -/
def execLdI (nnn : Addr12) (s : State) : Result := .next (s.setI (zextAddr nnn)).advance

/-- `Fx1E` ADD I (R172): modulo 2^16, no flag. -/
def execAddI (x : Reg) (s : State) : Result := .next (s.setI (s.i + zextByte (s.reg x))).advance

/-- `Fx29` LD F (R173): the whole byte is multiplied. -/
def execLdF (x : Reg) (s : State) : Result := .next (s.setI (glyphAddr (s.reg x))).advance

/-- `Fx33` LD B (R174): hundreds, tens and ones at I, I + 1 and I + 2. -/
def execLdB (x : Reg) (s : State) : Result :=
  .next (((s.memWrite (s.effAddr 0) (hundredsDigit (s.reg x))).memWrite (s.effAddr 1)
    (tensDigit (s.reg x))).memWrite (s.effAddr 2) (onesDigit (s.reg x))).advance

/-- The first n writes of `Fx55`, in order: `MemWrite(I + k, 1, V[k])` for k = 0 .. n-1 (R175). -/
def State.storeRegs (s : State) : Nat → State
  | 0 => s
  | n + 1 => (s.storeRegs n).memWrite (s.effAddr n) (s.reg (regOf n))

/-- The first n reads of `Fx65`, in order: `V[k] <- MemRead(I + k, 1)` for k = 0 .. n-1 (R176). -/
def State.loadRegs (s : State) : Nat → State
  | 0 => s
  | n + 1 => (s.loadRegs n).setReg (regOf n) (s.memRead (s.effAddr n))

/-- `Fx55` LD [I], Vx (R175): V0..Vx inclusive. -/
def execLdMemStore (x : Reg) (s : State) : Result := .next (s.storeRegs (x.val + 1)).advance

/-- `Fx65` LD Vx, [I] (R176): V0..Vx inclusive. -/
def execLdMemLoad (x : Reg) (s : State) : Result := .next (s.loadRegs (x.val + 1)).advance

end Sys2Proof.Machine
end

