-- ==== Sys2Proof/Machine/KeysTimers.lean ====
section
/-! DEFINITION. Key and timer instructions (45_keys_timers.md R210 to R217). KEYS is this step's snapshot, DT and ST hold
their values after this step's countdown. -/

namespace Sys2Proof.Machine

/-- `Ex9E` SKP (R211). -/
def execSkp (x : Reg) (s : State) : Result := .next (s.skipIf (s.keyPressed (keyIndex (s.reg x))))

/-- `ExA1` SKNP (R212). -/
def execSknp (x : Reg) (s : State) : Result := .next (s.skipIf (!s.keyPressed (keyIndex (s.reg x))))

/-- The state after `Fx0A` (R213): the lowest pressed key and the advance, or no change at all while none is pressed. -/
def State.waitKey (s : State) (x : Reg) : State :=
  match s.firstKey with
  | some k => (s.setReg x (BitVec.ofNat 8 k)).advance
  | none => s

/-- `Fx0A` LD Vx, K (R213). -/
def execLdK (x : Reg) (s : State) : Result := .next (s.waitKey x)

/-- `Fx07` LD Vx, DT (R214). -/
def execLdVxDt (x : Reg) (s : State) : Result := .next (s.setReg x s.dt).advance

/-- `Fx15` LD DT, Vx (R215). -/
def execLdDtVx (x : Reg) (s : State) : Result := .next (s.setDt (s.reg x)).advance

/-- `Fx18` LD ST, Vx (R216). -/
def execLdStVx (x : Reg) (s : State) : Result := .next (s.setSt (s.reg x)).advance

end Sys2Proof.Machine
end

