-- ==== Sys2Proof/Machine/Cycle.lean ====
section
/-! DEFINITION. Phases (c) and (d) of a step (40_cycle.md R100, R105) and the placing of an instruction word where the next
fetch reads. -/

namespace Sys2Proof.Machine

/-- Phases (c) and (d) on a fetched word: decode, then execute, or raise DecodeError with PC and the word (R100). -/
def execWord (w : Word) (s : State) : Result :=
  match decodeWord w with
  | .ok i => Sys2Proof.Machine.exec i s
  | .error _ => .next (s.raiseFault .decodeError w)

/-- Store a word where the next step fetches: the high byte at PC, the low byte at trunc_16(PC + 1) (40_cycle.md R101). A
latched fault, which would stop the fetch, is cleared (log 8). -/
def State.placeWord (s : State) (w : Word) : State :=
  { (s.memWrite s.pc.toNat (hiByte w)).memWrite (s.pc + 1).toNat (loByte w) with fault := none }

end Sys2Proof.Machine
end

