-- ==== Sys2Proof/Machine/Step.lean ====
section
/-! DEFINITION. One step of the core (40_cycle.md R100). -/

namespace Sys2Proof.Machine

/-- `Step(keys, rnd)` with the next lined-up or free inputs (R100): nothing while a fault is latched (60_exceptions.md R236);
else sample the inputs, fetch at PC, count the timers down, decode and execute. The fetch reads memory and PC, which the
sampling and the countdown leave alone. -/
def step (s : State) : Host.Outcome State Fault Refusal :=
  match s.fault with
  | some _ => .next s
  | none => execWord s.fetchWord s.beforeExec

/-- The state with an instruction word of the opcode table stored where `step` fetches next. -/
def State.withFetchWord (s : State) (nbits w : Nat) : State := s.placeWord (tableWord nbits w)

end Sys2Proof.Machine
end

