-- ==== Sys2Proof/Machine/Ports.lean ====
section
/-! DEFINITION. The host's operations on the core (10_state.md R39 to R48): Reset, Load, Step with given inputs, and the
outputs. -/

namespace Sys2Proof.Machine

/-- `Reset(variant)` (70_reset_and_hazards.md R260) with the parameters FONT and VF_ORDER (00_scope.md R9): every piece of
state at its reset value, memory the font and zeros. `State.reset` is this at the default parameters. -/
def State.resetWith (variant : Variant) (font : Vector Byte 80) (order : VfOrder) : State :=
  { State.reset with
    pc := programStart variant
    variant := variant
    vfOrder := order
    mem := Memory.writeUpTo 0x04F [] 0x000 font.toList }

/-- `Reset` issued in a running machine, at any time (R260, D26): the core's state is that of a reset; the model's own
record of the inputs to come stays (log 23). -/
def State.hostReset (s : State) (variant : Variant) (font : Vector Byte 80) (order : VfOrder) : State :=
  { State.resetWith variant font order with inputs := s.inputs, tick := s.tick }

/-- `Load(bytes)` (10_state.md R42): byte k goes to PROGRAM_START + k up to 0xFFF, the rest is dropped; nothing else
changes, and a latched fault does not matter (60_exceptions.md R236). -/
def State.load (s : State) (bytes : List Byte) : State :=
  { s with mem := Memory.writeUpTo 0xFFF s.mem (programStart s.variant).toNat bytes }

/-- The state with the inputs of the next step lined up (R40). -/
def State.withInput (s : State) (keys : BitVec 16) (rnd : Byte) : State :=
  { s with inputs := { keys := keys, rnd := rnd } :: s.inputs }

/-- `Step(keys, rnd)` (R43): one cycle with these inputs; with a fault latched nothing at all changes, and the inputs are
refused, not lined up for a later step (log 4). -/
def hostStep (keys : BitVec 16) (rnd : Byte) (s : State) : Result :=
  match s.fault with
  | some _ => .next s
  | none => step (s.withInput keys rnd)

/-! Outputs (R41), read between operations only (D27). -/

/-- `fb[k]`, with `fb[row·64 + col] = FB[row][col]` (R46). -/
def State.fbOut (s : State) (k : Fin 2048) : Bool :=
  s.fb.pixel (Fin.ofNat 32 (k.val / 64)) (Fin.ofNat 64 (k.val % 64))

/-- `st[7:0]` (R47). -/
def State.stOut (s : State) : Byte := s.st

/-- `sound_active = (ST ≠ 0)` (R47). -/
def State.soundActive (s : State) : Bool := s.st != 0

/-- The code of a fault kind (R48). -/
def faultCode : FaultKind → Nat
  | .decodeError => 1
  | .stackOverflow => 2
  | .stackUnderflow => 3

/-- `fault_kind` (R48): 0 while no fault is latched. -/
def State.faultKindOut (s : State) : Nat :=
  match s.fault with
  | none => 0
  | some r => faultCode r.kind

/-- `fault_pc` (R48). -/
def State.faultPcOut (s : State) : Word :=
  match s.fault with
  | none => 0
  | some r => r.pc

/-- `fault_word` (R48). -/
def State.faultWordOut (s : State) : Word :=
  match s.fault with
  | none => 0
  | some r => r.word

end Sys2Proof.Machine
end

