-- ==== Sys2Proof/Safety.lean ====
section
/-! DEFINITION. The terms claims use: halting and the end of a run (70_reset_and_hazards.md R271), the invariant of the
machine, and the frame predicates, which say what an instruction leaves unchanged (40_cycle.md R110). -/

namespace Sys2Proof.Machine

/-- The halted state (60_exceptions.md R236). -/
def State.halted (s : State) : Prop := s.fault ≠ none

/-- The self-jump observation point of a run (R271 (b)): the instruction at PC mod 4096 is `1nnn` with
nnn = PC mod 4096. The core does not stop there. -/
def State.atSelfJump (s : State) : Prop :=
  decodeWord s.fetchWord = .ok (.jp (BitVec.ofNat 12 (translate s.pc.toNat)))

/-- A run that has reached its self-jump without a fault; a fault is never a successful end (R271 (c)). -/
def State.endedWell (s : State) : Prop := s.fault = none ∧ s.atSelfJump

/-- What a latched fault record says of the state it stopped (R231 to R234): it names PC and the word there, and its kind
is the one that word and SP cause. -/
def FaultRecord.explains (r : FaultRecord) (s : State) : Prop :=
  r.pc = s.pc ∧ r.word = s.fetchWord ∧
  (r.kind = .decodeError ∧ (∃ e, decodeWord r.word = .error e) ∨
   r.kind = .stackOverflow ∧ (∃ nnn, decodeWord r.word = .ok (.call nnn)) ∧ s.sp.val = stackCapacity ∨
   r.kind = .stackUnderflow ∧ r.word = 0x00EE#16 ∧ s.sp.val = 0)

/-- The invariant of the machine: memory is in canonical form, and a latched fault explains the state it stopped. -/
def State.Inv (s : State) : Prop :=
  Memory.wf s.mem = true ∧ ∀ r, s.fault = some r → r.explains s

/-- The sprite of `Dxyn` has a 1-bit over the pixel (r, c): row i and column j of the sprite land there, modulo 32 and 64,
and bit 7 - j of the byte at I + i is 1 (44_display.md R191, R193). -/
def State.spriteCovers (s : State) (x y : Reg) (n : Nat) (r : Fin 32) (c : Fin 64) : Prop :=
  ∃ i j, i < n ∧ j < 8 ∧ r.val = ((s.reg y).toNat + i) % 32 ∧ c.val = ((s.reg x).toNat + j) % 64 ∧
    (s.memRead (s.i.toNat + i)).getLsbD (7 - j) = true

/-- What the second statement of `8xy5`, `8xy6`, `8xy7` and `8xyE` reads from a register, as a number, when the first wrote
f to VF: f from VF under `sequential`, else the value before the instruction (42_alu.md R141). -/
def State.secondRead (s : State) (r : Reg) (f : Nat) : Nat :=
  if s.vfOrder = .sequential ∧ r = vf then f else (s.reg r).toNat

/-- The instructions that write VF (10_state.md R22, R33): the six flag writers, and those whose explicit destination is VF.
`Fx65` with x = 15 has VF as the last register of its block (43_index_memory.md R176). -/
def writesVf : Instr → Bool
  | .addReg _ _ | .sub _ _ | .shr _ _ | .subn _ _ | .shl _ _ | .drw _ _ _ => true
  | .ldImm x _ | .addImm x _ | .rnd x _ => x == vf
  | .ldReg x _ | .orReg x _ | .andReg x _ | .xorReg x _ => x == vf
  | .ldVxDt x | .ldK x | .ldMemLoad x => x == vf
  | .cls | .ret | .sys _ | .jp _ | .call _ | .seImm _ _ | .sneImm _ _ | .seReg _ _ | .sneReg _ _
  | .ldI _ | .jpV0 _ | .skp _ | .sknp _ | .ldDtVx _ | .ldStVx _ | .addI _ | .ldF _ | .ldB _
  | .ldMemStore _ => false

/-- The forms whose result may depend on `VF_ORDER` (42_alu.md R141): `8xy5` and `8xy7` with x = 15 or y = 15, and `8xy6` and
`8xyE` with x = 15 (they do not read y). -/
def vfOrderSensitive : Instr → Bool
  | .sub x y | .subn x y => x == vf || y == vf
  | .shr x _ | .shl x _ => x == vf
  | .cls | .ret | .sys _ | .jp _ | .call _ | .seImm _ _ | .sneImm _ _ | .seReg _ _ | .sneReg _ _
  | .ldImm _ _ | .addImm _ _ | .ldReg _ _ | .orReg _ _ | .andReg _ _ | .xorReg _ _ | .addReg _ _
  | .ldI _ | .jpV0 _ | .rnd _ _ | .drw _ _ _ | .skp _ | .sknp _ | .ldVxDt _ | .ldK _ | .ldDtVx _
  | .ldStVx _ | .addI _ | .ldF _ | .ldB _ | .ldMemStore _ | .ldMemLoad _ => false

/-- The instructions that read KEYS (10_state.md R31, R35). -/
def readsKeys : Instr → Bool
  | .skp _ | .sknp _ | .ldK _ => true
  | .cls | .ret | .sys _ | .jp _ | .call _ | .seImm _ _ | .sneImm _ _ | .seReg _ _ | .sneReg _ _
  | .ldImm _ _ | .addImm _ _ | .ldReg _ _ | .orReg _ _ | .andReg _ _ | .xorReg _ _ | .addReg _ _
  | .sub _ _ | .shr _ _ | .subn _ _ | .shl _ _ | .ldI _ | .jpV0 _ | .rnd _ _ | .drw _ _ _
  | .ldVxDt _ | .ldDtVx _ | .ldStVx _ | .addI _ | .ldF _ | .ldB _ | .ldMemStore _ | .ldMemLoad _ => false

/-- The instruction that reads the step's random byte (10_state.md R45). -/
def readsRnd : Instr → Bool
  | .rnd _ _ => true
  | .cls | .ret | .sys _ | .jp _ | .call _ | .seImm _ _ | .sneImm _ _ | .seReg _ _ | .sneReg _ _
  | .ldImm _ _ | .addImm _ _ | .ldReg _ _ | .orReg _ _ | .andReg _ _ | .xorReg _ _ | .addReg _ _
  | .sub _ _ | .shr _ _ | .subn _ _ | .shl _ _ | .ldI _ | .jpV0 _ | .drw _ _ _ | .skp _ | .sknp _
  | .ldVxDt _ | .ldK _ | .ldDtVx _ | .ldStVx _ | .addI _ | .ldF _ | .ldB _ | .ldMemStore _
  | .ldMemLoad _ => false

/-- The instructions whose memory accesses are at I + k (43_index_memory.md R170, 20_memory.md R65). -/
def accessesAtI : Instr → Bool
  | .drw _ _ _ | .ldB _ | .ldMemStore _ | .ldMemLoad _ => true
  | .cls | .ret | .sys _ | .jp _ | .call _ | .seImm _ _ | .sneImm _ _ | .seReg _ _ | .sneReg _ _
  | .ldImm _ _ | .addImm _ _ | .ldReg _ _ | .orReg _ _ | .andReg _ _ | .xorReg _ _ | .addReg _ _
  | .sub _ _ | .shr _ _ | .subn _ _ | .shl _ _ | .ldI _ | .jpV0 _ | .rnd _ _ | .skp _ | .sknp _
  | .ldVxDt _ | .ldK _ | .ldDtVx _ | .ldStVx _ | .addI _ | .ldF _ => false

/-! Frame predicates, from a state s before to a state t after. -/

/-- Every general register but those listed is unchanged. -/
def sameRegsBut (changed : List Reg) (s t : State) : Prop := ∀ r, r ∉ changed → t.reg r = s.reg r

/-- Every byte of memory reads as before. -/
def sameMem (s t : State) : Prop := ∀ a, t.memRead a = s.memRead a

/-- Every byte of memory outside the listed addresses reads as before; addresses are taken modulo 4096. -/
def sameMemBut (stored : List Nat) (s t : State) : Prop :=
  ∀ a, translate a ∉ stored.map translate → t.memRead a = s.memRead a

/-- The call stack is unchanged. -/
def sameStack (s t : State) : Prop := t.sp = s.sp ∧ ∀ k, t.stackEntry k = s.stackEntry k

/-- Both timers are unchanged. -/
def sameTimers (s t : State) : Prop := t.dt = s.dt ∧ t.st = s.st

/-- Every pixel is unchanged. -/
def sameScreen (s t : State) : Prop := ∀ r c, t.fb.pixel r c = s.fb.pixel r c

/-- The input latches, the fault latch, the parameters and the model's record of inputs are unchanged. -/
def sameControl (s t : State) : Prop :=
  t.keys = s.keys ∧ t.fault = s.fault ∧ t.variant = s.variant ∧ t.vfOrder = s.vfOrder ∧
  t.rnd = s.rnd ∧ t.inputs = s.inputs ∧ t.tick = s.tick

/-- The frame of an instruction that writes registers and PC only. -/
def sameButRegsPc (s t : State) : Prop :=
  t.i = s.i ∧ sameMem s t ∧ sameStack s t ∧ sameTimers s t ∧ sameScreen s t ∧ sameControl s t

/-- The frame of an instruction that writes PC only. -/
def sameButPc (s t : State) : Prop := sameRegsBut [] s t ∧ sameButRegsPc s t

/-- The frame of an instruction that writes I and PC only. -/
def sameButIPc (s t : State) : Prop :=
  sameRegsBut [] s t ∧ sameMem s t ∧ sameStack s t ∧ sameTimers s t ∧ sameScreen s t ∧ sameControl s t

/-- The frame of an instruction that stores bytes at the listed addresses and writes PC. -/
def sameButStoresPc (stored : List Nat) (s t : State) : Prop :=
  sameRegsBut [] s t ∧ t.i = s.i ∧ sameMemBut stored s t ∧ sameStack s t ∧ sameTimers s t ∧
  sameScreen s t ∧ sameControl s t

/-- The frame of an instruction that writes the call stack and PC. -/
def sameButStackPc (s t : State) : Prop :=
  sameRegsBut [] s t ∧ t.i = s.i ∧ sameMem s t ∧ sameTimers s t ∧ sameScreen s t ∧ sameControl s t

/-- The frame of an instruction that writes timers and PC. -/
def sameButTimersPc (s t : State) : Prop :=
  sameRegsBut [] s t ∧ t.i = s.i ∧ sameMem s t ∧ sameStack s t ∧ sameScreen s t ∧ sameControl s t

/-- The frame of raising a fault: everything but the fault latch is unchanged (60_exceptions.md R231). -/
def sameButFault (s t : State) : Prop :=
  t.pc = s.pc ∧ sameRegsBut [] s t ∧ t.i = s.i ∧ sameMem s t ∧ sameStack s t ∧ sameTimers s t ∧
  sameScreen s t ∧ t.keys = s.keys ∧ t.variant = s.variant ∧ t.vfOrder = s.vfOrder ∧ t.rnd = s.rnd ∧
  t.inputs = s.inputs ∧ t.tick = s.tick

end Sys2Proof.Machine
end

