-- ==== Sys2Proof/Certificates/Slice0/Obligations.lean ====
section
/-! DEFINITION. The statements for the provers. An instruction's statement gives the word its encoding spells, the
instruction the decoder reads from it, and what exec does with that instruction from EVERY state, its frame included
(frame predicates: Safety.lean). -/

open Sys2Proof Sys2Proof.Machine

/-! ## The step -/

/-- 40_cycle.md R100, R103, R105: outside a fault, a step whose bytes at PC decode to i is exec of i on the state with the
inputs sampled and the timers counted down, PC still at the instruction. The spec's placement of the key sampling is its
own decision D20; the input queue is the model's (log 2). -/
def Obligations.StepRunsDecodedInstruction : Prop :=
  ∀ (s : State) (i : Instr), s.fault = none →
    decode [s.memRead s.pc.toNat, s.memRead (s.pc + 1).toNat] = .ok (i, []) →
    step s = exec i s.beforeExec ∧
    s.beforeExec = { s with
      keys := s.nextInput.keys
      rnd := s.nextInput.rnd
      inputs := s.inputs.tail
      tick := if s.inputs.isEmpty then s.tick + 1 else s.tick
      dt := if s.dt = 0 then 0 else s.dt - 1
      st := if s.st = 0 then 0 else s.st - 1 }

/-- 40_cycle.md R101: the fetched word is the byte at PC, high, and the byte at trunc_16(PC + 1), low, both through the
translator; at PC mod 4096 = 0xFFF the low byte comes from 0x000. The fetch changes nothing: it is a reading of the state. -/
def Obligations.FetchIsBigEndianThroughTheTranslator : Prop :=
  ∀ s : State,
    s.fetchWord.toNat / 256 = (s.memRead (s.pc.toNat % 4096)).toNat ∧
    s.fetchWord.toNat % 256 = (s.memRead ((s.pc + 1).toNat % 4096)).toNat ∧
    (s.pc.toNat % 4096 = 0xFFF → s.fetchWord.toNat % 256 = (s.memRead 0x000).toNat)

/-- 60_exceptions.md R231, R232 and 40_cycle.md R108 (decision D13): a word that decodes to nothing latches DecodeError with
its PC and word; the timers have counted down, the keys are sampled, and nothing else changes. -/
def Obligations.UndefinedWordLatchesDecodeError : Prop :=
  ∀ (s : State) (e : Reject), s.fault = none → decodeWord s.fetchWord = .error e →
    ∃ t, step s = .next t ∧
      t.fault = some { kind := .decodeError, pc := s.pc, word := s.fetchWord } ∧
      t.pc = s.pc ∧ sameRegsBut [] s t ∧ t.i = s.i ∧ sameMem s t ∧ sameStack s t ∧ sameScreen s t ∧
      t.dt.toNat = s.dt.toNat - 1 ∧ t.st.toNat = s.st.toNat - 1 ∧
      t.keys = s.nextInput.keys ∧ t.variant = s.variant ∧ t.vfOrder = s.vfOrder

/-- 60_exceptions.md R236 (decisions D13, D28): while a fault is latched a step changes no state at all. -/
def Obligations.HaltedStepChangesNothing : Prop :=
  ∀ s : State, s.halted → step s = .next s

/-- 60_exceptions.md R235, R230: no instruction and no word ends a step without a next state. That a latched fault is a next
state and not a fault outcome is the model's reading (log 1). -/
def Obligations.EveryStepAnswersNextState : Prop :=
  ∀ s : State, ∃ t, step s = .next t

/-- 60_exceptions.md R232 to R237, 41_control_flow.md R121, R124 (decisions D11 to D13): the fault latched by a step, exactly:
DecodeError on an undefined word, StackOverflow on `2nnn` with SP = 16, StackUnderflow on `00EE` with SP = 0, else none;
each with PC and the fetched word. -/
def Obligations.StepFaultsExactlyForTheThreeCauses : Prop :=
  ∀ s t : State, s.fault = none → step s = .next t →
    t.fault =
      match decodeWord s.fetchWord with
      | .error _ => some { kind := .decodeError, pc := s.pc, word := s.fetchWord }
      | .ok (.call _) =>
        if s.sp.val = 16 then some { kind := .stackOverflow, pc := s.pc, word := s.fetchWord } else none
      | .ok .ret =>
        if s.sp.val = 0 then some { kind := .stackUnderflow, pc := s.pc, word := s.fetchWord } else none
      | .ok _ => none

/-- 40_cycle.md R108, 60_exceptions.md R231 (decision D13): a step that latches a fault changes nothing but the latch, the
timers' countdown and the sampled inputs. -/
def Obligations.FaultingStepKeepsEverythingElse : Prop :=
  ∀ s t : State, s.fault = none → step s = .next t → t.fault ≠ none →
    t.pc = s.pc ∧ sameRegsBut [] s t ∧ t.i = s.i ∧ sameMem s t ∧ sameStack s t ∧ sameScreen s t ∧
    t.dt.toNat = s.dt.toNat - 1 ∧ t.st.toNat = s.st.toNat - 1 ∧ t.keys = s.nextInput.keys

/-- 40_cycle.md R103: in every step not begun in fault each nonzero timer goes down by one and a zero timer stays; only
`Fx15` and `Fx18` then overwrite their timer, with the register's value before the step. (Natural subtraction keeps 0.) -/
def Obligations.TimersCountDownInEveryStep : Prop :=
  ∀ s t : State, s.fault = none → step s = .next t →
    (t.dt.toNat =
      match decodeWord s.fetchWord with
      | .ok (.ldDtVx x) => (s.reg x).toNat
      | _ => s.dt.toNat - 1) ∧
    (t.st.toNat =
      match decodeWord s.fetchWord with
      | .ok (.ldStVx x) => (s.reg x).toNat
      | _ => s.st.toNat - 1)

/-- 10_state.md R43, R44, R45 (decisions D20, D21): `Step(keys, rnd)` executes with KEYS = keys and the random byte rnd, and
leaves KEYS = keys, whatever the instruction; in the halted state it changes nothing, and its inputs are lost. The clause
on the input queue, the field `inputs`, is about the model's own field (log 2, DESIGN CHOICE; log 4 in the halted state). -/
def Obligations.HostStepSamplesItsInputs : Prop :=
  ∀ (keys : BitVec 16) (rnd : Byte) (s : State),
    (s.fault = none →
      hostStep keys rnd s =
        execWord s.fetchWord { s with
          keys := keys
          rnd := rnd
          dt := if s.dt = 0 then 0 else s.dt - 1
          st := if s.st = 0 then 0 else s.st - 1 } ∧
      ∀ t, hostStep keys rnd s = .next t → t.keys = keys ∧ t.inputs = s.inputs) ∧
    (s.fault ≠ none → hostStep keys rnd s = .next s)

/-! ## Who may change what (40_cycle.md R110) -/

/-- 10_state.md R24: I changes only in a step of `Annn`, `Fx1E` or `Fx29`. -/
def Obligations.AddressRegisterChangesOnlyByItsWriters : Prop :=
  ∀ s t : State, step s = .next t → t.i ≠ s.i →
    ∃ i, decodeWord s.fetchWord = .ok i ∧
      ((∃ nnn, i = .ldI nnn) ∨ (∃ x, i = .addI x) ∨ (∃ x, i = .ldF x))

/-- 10_state.md R30: a pixel changes only in a step of `00E0` or `Dxyn`. -/
def Obligations.ScreenChangesOnlyByDisplayInstructions : Prop :=
  ∀ (s t : State) (r : Fin 32) (c : Fin 64), step s = .next t → t.fb.pixel r c ≠ s.fb.pixel r c →
    decodeWord s.fetchWord = .ok .cls ∨ ∃ x y n, decodeWord s.fetchWord = .ok (.drw x y n)

/-- 20_memory.md R65, R61: a byte of memory changes only in a step of `Fx33`, at I, I + 1 or I + 2 modulo 4096, or of `Fx55`,
at I + 0 .. I + x modulo 4096. -/
def Obligations.MemoryChangesOnlyByStores : Prop :=
  ∀ (s t : State) (a : Nat), step s = .next t → t.memRead a ≠ s.memRead a →
    (∃ x k, decodeWord s.fetchWord = .ok (.ldB x) ∧ k < 3 ∧ a % 4096 = (s.i.toNat + k) % 4096) ∨
    (∃ x k, decodeWord s.fetchWord = .ok (.ldMemStore x) ∧ k ≤ x.val ∧ a % 4096 = (s.i.toNat + k) % 4096)

/-- 10_state.md R34, R35: SP changes only in a step of `2nnn` or `00EE`, by one; a stack entry changes only in a step of
`2nnn`, and only entry SP. -/
def Obligations.StackChangesOnlyByCallAndReturn : Prop :=
  ∀ s t : State, step s = .next t →
    (t.sp ≠ s.sp →
      (∃ nnn, decodeWord s.fetchWord = .ok (.call nnn) ∧ t.sp.val = s.sp.val + 1) ∨
      (decodeWord s.fetchWord = .ok .ret ∧ t.sp.val + 1 = s.sp.val)) ∧
    ∀ k, t.stackEntry k ≠ s.stackEntry k →
      k.val = s.sp.val ∧ ∃ nnn, decodeWord s.fetchWord = .ok (.call nnn)

/-- 10_state.md R22: VF is written by the six flag writers and by no other instruction except where VF is its explicit
destination (or the last register of `Fx65`'s block). -/
def Obligations.VfChangesOnlyByItsWriters : Prop :=
  ∀ (i : Instr) (s t : State), exec i s = .next t → writesVf i = false → t.reg vf = s.reg vf

/-- 10_state.md R28, 00_scope.md R9: no step changes VARIANT or the parameter VF_ORDER. That VF_ORDER stands in the state is
the model's choice (log 5). -/
def Obligations.ParametersNeverChange : Prop :=
  ∀ s t : State, step s = .next t → t.variant = s.variant ∧ t.vfOrder = s.vfOrder

/-- 42_alu.md R141 (decision D7): the two readings of VF_ORDER give different results only in `8xy5` and `8xy7` with x = 15
or y = 15 and in `8xy6` and `8xyE` with x = 15. -/
def Obligations.VfOrderMattersOnlyForVfOperands : Prop :=
  ∀ (i : Instr) (s t : State) (o : VfOrder), vfOrderSensitive i = false → exec i s = .next t →
    exec i { s with vfOrder := o } = .next { t with vfOrder := o }

/-- 10_state.md R45, 42_alu.md R153 (decision D21): only `Cxkk` reads the random byte. -/
def Obligations.RandomByteReadOnlyByRnd : Prop :=
  ∀ (i : Instr) (s t : State) (b : Byte), readsRnd i = false → exec i s = .next t →
    exec i { s with rnd := b } = .next { t with rnd := b }

/-- 10_state.md R31, R35: KEYS is observable only through `Ex9E`, `ExA1` and `Fx0A`. -/
def Obligations.KeysReadOnlyByKeyInstructions : Prop :=
  ∀ (i : Instr) (s t : State) (k : BitVec 16), readsKeys i = false → exec i s = .next t →
    exec i { s with keys := k } = .next { t with keys := k }

/-- 43_index_memory.md R170 ("derived" in the spec): bits 15..12 of I never affect a memory access. Two values of I that are
equal modulo 4096 give the same registers, memory, framebuffer and PC in every instruction that accesses memory at I + k. -/
def Obligations.HighBitsOfINeverAffectAccess : Prop :=
  ∀ (i : Instr) (s t : State) (j : Word), accessesAtI i = true → j.toNat % 4096 = s.i.toNat % 4096 →
    exec i s = .next t → exec i { s with i := j } = .next { t with i := j }

/-! ## Encoding -/

/-- 30_encoding.md R84, R85: every well-formed instruction, with every operand value its encoding admits, is what the decoder
reads from its encoding, through the bytes in memory order as well. -/
def Obligations.DecodeOfEncodeIsTheInstruction : Prop :=
  ∀ (i : Instr) (rest : List Byte), i.wellFormed = true →
    decodeWord (encode i) = .ok i ∧
    decode (hiByte (encode i) :: loByte (encode i) :: rest) = .ok (i, rest)

/-- 30_encoding.md R84 to R86 (decision D6 for families 5 and 9): a word that decodes is the encoding of what it decodes to,
but for the low nibble of families 5 and 9, which is not examined; and only well-formed instructions are read. -/
def Obligations.EncodeOfDecodeIsTheWord : Prop :=
  ∀ (w : Word) (i : Instr), decodeWord w = .ok i →
    i.wellFormed = true ∧
    if field w 15 12 = 5 ∨ field w 15 12 = 9 then (encode i).toNat = w.toNat / 16 * 16 else encode i = w

/-- 30_encoding.md R87: the words that raise DecodeError are exactly the three patterns of the table. -/
def Obligations.DecoderRejectsExactlyUndefinedWords : Prop :=
  ∀ w : Word, (∃ e, decodeWord w = .error e) ↔
    (field w 15 12 = 0x8 ∧ field w 3 0 ∈ [0x8, 0x9, 0xA, 0xB, 0xC, 0xD, 0xF]) ∨
    (field w 15 12 = 0xE ∧ field w 7 0 ∉ [0x9E, 0xA1]) ∨
    (field w 15 12 = 0xF ∧ field w 7 0 ∉ [0x07, 0x0A, 0x15, 0x18, 0x1E, 0x29, 0x33, 0x55, 0x65])

/-- 30_encoding.md R82, 95_test_vectors.md: words written out from the patterns, one of each format. That 0x5AB7 is SE, with
its low nibble not examined, is R86 (decision D6), that 0x01E0 is SYS is R85 (decision D5), both log 12; the three undefined
words are R87's. -/
def Obligations.WrittenOutWordsDecode : Prop :=
  decodeTableWord 16 0x00E0 = some .cls ∧ decodeTableWord 16 0x2ABC = some (.call 0xABC) ∧
  decodeTableWord 16 0x6A9C = some (.ldImm 0xA 0x9C) ∧ decodeTableWord 16 0x8AF7 = some (.subn 0xA 0xF) ∧
  decodeTableWord 16 0xD123 = some (.drw 1 2 3) ∧ decodeTableWord 16 0xF533 = some (.ldB 5) ∧
  decodeTableWord 16 0x5AB7 = some (.seReg 0xA 0xB) ∧ decodeTableWord 16 0x01E0 = some (.sys 0x1E0) ∧
  decodeTableWord 16 0x8008 = none ∧ decodeTableWord 16 0xE09F = none ∧ decodeTableWord 16 0xF0FF = none

/-! ## Control flow -/

/-- 41_control_flow.md R122, 30_encoding.md R85 (decision D5): SYS only advances PC, whatever nnn; the words 0x00E0 and
0x00EE are not SYS. For the ill-formed terms SYS 0x0E0 and SYS 0x0EE, which no word decodes to, the clause on exec is the
model's own choice (log 25, DESIGN CHOICE), not R122's. -/
def Obligations.SysOnlyAdvances : Prop :=
  ∀ (nnn : Addr12) (s : State),
    (nnn ≠ 0x0E0 → nnn ≠ 0x0EE → decodeWord (BitVec.ofNat 16 nnn.toNat) = .ok (.sys nnn)) ∧
    ∃ t, exec (.sys nnn) s = .next t ∧ t.pc = s.pc + 2 ∧ sameButPc s t

/-- 41_control_flow.md R123: JP sets PC to nnn, zero-extended, with no +2, and changes nothing else. -/
def Obligations.JumpSetsPc : Prop :=
  ∀ (nnn : Addr12) (s : State),
    decodeWord (BitVec.ofNat 16 (0x1000 + nnn.toNat)) = .ok (.jp nnn) ∧
    ∃ t, exec (.jp nnn) s = .next t ∧ t.pc.toNat = nnn.toNat ∧ sameButPc s t

/-- 41_control_flow.md R129: JP V0 sets PC to the exact sum of nnn and V0, not reduced modulo 4096; the next fetch reads at
that sum modulo 4096. -/
def Obligations.JumpV0SetsPcToExactSum : Prop :=
  ∀ (nnn : Addr12) (s : State),
    decodeWord (BitVec.ofNat 16 (0xB000 + nnn.toNat)) = .ok (.jpV0 nnn) ∧
    ∃ t, exec (.jpV0 nnn) s = .next t ∧ t.pc.toNat = nnn.toNat + (s.reg 0).toNat ∧
      t.fetchWord = wordOfBytes (s.memRead ((nnn.toNat + (s.reg 0).toNat) % 4096))
        (s.memRead ((nnn.toNat + (s.reg 0).toNat + 1) % 4096)) ∧ sameButPc s t

/-- 41_control_flow.md R125, R126: SE and SNE with a byte skip 4 or advance 2 and change nothing else. -/
def Obligations.ImmediateSkips : Prop :=
  ∀ (x : Reg) (kk : Byte) (s : State),
    decodeWord (BitVec.ofNat 16 (0x3000 + 0x100 * x.val + kk.toNat)) = .ok (.seImm x kk) ∧
    decodeWord (BitVec.ofNat 16 (0x4000 + 0x100 * x.val + kk.toNat)) = .ok (.sneImm x kk) ∧
    (∃ t, exec (.seImm x kk) s = .next t ∧
      t.pc = s.pc + (if s.reg x = kk then 4 else 2) ∧ sameButPc s t) ∧
    (∃ t, exec (.sneImm x kk) s = .next t ∧
      t.pc = s.pc + (if s.reg x = kk then 2 else 4) ∧ sameButPc s t)

/-- 41_control_flow.md R127, R128, 30_encoding.md R86 (decision D6): SE and SNE with two registers, whatever the low nibble f
of the word. -/
def Obligations.RegisterSkips : Prop :=
  ∀ (x y : Reg) (f : Fin 16) (s : State),
    decodeWord (BitVec.ofNat 16 (0x5000 + 0x100 * x.val + 0x10 * y.val + f.val)) = .ok (.seReg x y) ∧
    decodeWord (BitVec.ofNat 16 (0x9000 + 0x100 * x.val + 0x10 * y.val + f.val)) = .ok (.sneReg x y) ∧
    (∃ t, exec (.seReg x y) s = .next t ∧
      t.pc = s.pc + (if s.reg x = s.reg y then 4 else 2) ∧ sameButPc s t) ∧
    (∃ t, exec (.sneReg x y) s = .next t ∧
      t.pc = s.pc + (if s.reg x = s.reg y then 2 else 4) ∧ sameButPc s t)

/-- 41_control_flow.md R124 (decisions D11, D12): CALL with SP < 16 pushes its own address and jumps; entry SP alone
changes. With SP = 16 it latches StackOverflow with its PC and word and changes nothing else. -/
def Obligations.CallPushesOrOverflows : Prop :=
  ∀ (nnn : Addr12) (s : State),
    decodeWord (BitVec.ofNat 16 (0x2000 + nnn.toNat)) = .ok (.call nnn) ∧
    (s.sp.val < 16 →
      ∃ t, exec (.call nnn) s = .next t ∧ t.pc.toNat = nnn.toNat ∧ t.sp.val = s.sp.val + 1 ∧
        (∀ k, t.stackEntry k = if k.val = s.sp.val then s.pc else s.stackEntry k) ∧ sameButStackPc s t) ∧
    (s.sp.val = 16 →
      ∃ t, exec (.call nnn) s = .next t ∧
        t.fault = some { kind := .stackOverflow, pc := s.pc, word := BitVec.ofNat 16 (0x2000 + nnn.toNat) } ∧
        sameButFault s t)

/-- 41_control_flow.md R121 (decision D12): RET with SP > 0 takes the top entry plus 2 as PC and keeps every entry. With
SP = 0 it latches StackUnderflow with its PC and the word 0x00EE and changes nothing else. -/
def Obligations.ReturnPopsOrUnderflows : Prop :=
  decodeWord 0x00EE = .ok .ret ∧
  ∀ s : State,
    (∀ k : Fin 16, s.sp.val = k.val + 1 →
      ∃ t, exec .ret s = .next t ∧ t.pc = s.stackEntry k + 2 ∧ t.sp.val = k.val ∧
        (∀ j, t.stackEntry j = s.stackEntry j) ∧ sameButStackPc s t) ∧
    (s.sp.val = 0 →
      ∃ t, exec .ret s = .next t ∧
        t.fault = some { kind := .stackUnderflow, pc := s.pc, word := 0x00EE } ∧ sameButFault s t)

/-- 41_control_flow.md R121, R124 (95_test_vectors.md W6): a RET that finds the call stack as a CALL left it resumes at the
CALL's address plus 2 with the stack pointer from before the CALL, whatever ran in between. -/
def Obligations.ReturnResumesAfterItsCall : Prop :=
  ∀ (nnn : Addr12) (s t u w : State), s.sp.val < 16 → exec (.call nnn) s = .next t →
    sameStack t u → exec .ret u = .next w → w.pc = s.pc + 2 ∧ w.sp = s.sp

/-- 41_control_flow.md R123, 70_reset_and_hazards.md R271 (decision D29): a step at a self-jump stays there, with PC reduced
modulo 4096 (so unchanged below 0x1000); both timers count down, KEYS is the step's snapshot, and nothing else of the
spec's state changes. The random byte and the input queue, the model's own (log 2), are left open here. -/
def Obligations.SelfJumpOnlyCountsTimers : Prop :=
  ∀ s : State, s.fault = none → s.atSelfJump →
    ∃ t, step s = .next t ∧ t.pc.toNat = s.pc.toNat % 4096 ∧ t.endedWell ∧
      t.dt.toNat = s.dt.toNat - 1 ∧ t.st.toNat = s.st.toNat - 1 ∧ t.keys = s.nextInput.keys ∧
      sameRegsBut [] s t ∧ t.i = s.i ∧ sameMem s t ∧ sameStack s t ∧ sameScreen s t ∧
      t.variant = s.variant ∧ t.vfOrder = s.vfOrder

/-! ## Loads and ALU -/

/-- 42_alu.md R142, R144: LD Vx, kk and LD Vx, Vy. -/
def Obligations.LoadsSetTheRegister : Prop :=
  ∀ (x y : Reg) (kk : Byte) (s : State),
    decodeWord (BitVec.ofNat 16 (0x6000 + 0x100 * x.val + kk.toNat)) = .ok (.ldImm x kk) ∧
    decodeWord (BitVec.ofNat 16 (0x8000 + 0x100 * x.val + 0x10 * y.val)) = .ok (.ldReg x y) ∧
    (∃ t, exec (.ldImm x kk) s = .next t ∧ t.reg x = kk ∧ t.pc = s.pc + 2 ∧
      sameRegsBut [x] s t ∧ sameButRegsPc s t) ∧
    (∃ t, exec (.ldReg x y) s = .next t ∧ t.reg x = s.reg y ∧ t.pc = s.pc + 2 ∧
      sameRegsBut [x] s t ∧ sameButRegsPc s t)

/-- 42_alu.md R143: ADD Vx, kk wraps modulo 256 and writes no flag. -/
def Obligations.AddImmediateWrapsWithoutFlag : Prop :=
  ∀ (x : Reg) (kk : Byte) (s : State),
    decodeWord (BitVec.ofNat 16 (0x7000 + 0x100 * x.val + kk.toNat)) = .ok (.addImm x kk) ∧
    ∃ t, exec (.addImm x kk) s = .next t ∧
      (t.reg x).toNat = ((s.reg x).toNat + kk.toNat) % 256 ∧ t.pc = s.pc + 2 ∧
      sameRegsBut [x] s t ∧ sameButRegsPc s t

/-- 42_alu.md R145 to R147: OR, AND and XOR, bit by bit; VF changes only as the destination. -/
def Obligations.LogicalOperationsBitByBit : Prop :=
  ∀ (x y : Reg) (s : State),
    decodeWord (BitVec.ofNat 16 (0x8001 + 0x100 * x.val + 0x10 * y.val)) = .ok (.orReg x y) ∧
    decodeWord (BitVec.ofNat 16 (0x8002 + 0x100 * x.val + 0x10 * y.val)) = .ok (.andReg x y) ∧
    decodeWord (BitVec.ofNat 16 (0x8003 + 0x100 * x.val + 0x10 * y.val)) = .ok (.xorReg x y) ∧
    (∃ t, exec (.orReg x y) s = .next t ∧
      (∀ k, (t.reg x).getLsbD k = ((s.reg x).getLsbD k || (s.reg y).getLsbD k)) ∧ t.pc = s.pc + 2 ∧
      sameRegsBut [x] s t ∧ sameButRegsPc s t) ∧
    (∃ t, exec (.andReg x y) s = .next t ∧
      (∀ k, (t.reg x).getLsbD k = ((s.reg x).getLsbD k && (s.reg y).getLsbD k)) ∧ t.pc = s.pc + 2 ∧
      sameRegsBut [x] s t ∧ sameButRegsPc s t) ∧
    (∃ t, exec (.xorReg x y) s = .next t ∧
      (∀ k, (t.reg x).getLsbD k = ((s.reg x).getLsbD k ^^ (s.reg y).getLsbD k)) ∧ t.pc = s.pc + 2 ∧
      sameRegsBut [x] s t ∧ sameButRegsPc s t)

/-- 42_alu.md R148: ADD Vx, Vy. VF is the carry unless VF is the destination; the result is the low 8 bits of the sum of the
registers before the instruction, for x = 15 and y = 15 too. -/
def Obligations.AddRegistersSetsCarry : Prop :=
  ∀ (x y : Reg) (s : State),
    decodeWord (BitVec.ofNat 16 (0x8004 + 0x100 * x.val + 0x10 * y.val)) = .ok (.addReg x y) ∧
    ∃ t, exec (.addReg x y) s = .next t ∧
      (t.reg x).toNat = ((s.reg x).toNat + (s.reg y).toNat) % 256 ∧
      (x ≠ vf → (t.reg vf).toNat = if (s.reg x).toNat + (s.reg y).toNat > 255 then 1 else 0) ∧
      t.pc = s.pc + 2 ∧ sameRegsBut [x, vf] s t ∧ sameButRegsPc s t

/-- 42_alu.md R149, R151: SUB and SUBN in both readings of VF_ORDER. VF is the strict comparison unless VF is the
destination; the result is the difference modulo 256 of what the second statement reads (`State.secondRead`). -/
def Obligations.SubtractionsSetStrictGreaterFlag : Prop :=
  ∀ (x y : Reg) (s : State),
    decodeWord (BitVec.ofNat 16 (0x8005 + 0x100 * x.val + 0x10 * y.val)) = .ok (.sub x y) ∧
    decodeWord (BitVec.ofNat 16 (0x8007 + 0x100 * x.val + 0x10 * y.val)) = .ok (.subn x y) ∧
    (∃ t f, exec (.sub x y) s = .next t ∧ f = (if (s.reg x).toNat > (s.reg y).toNat then 1 else 0) ∧
      (t.reg x).toNat = (s.secondRead x f + 256 - s.secondRead y f) % 256 ∧
      (x ≠ vf → (t.reg vf).toNat = f) ∧
      t.pc = s.pc + 2 ∧ sameRegsBut [x, vf] s t ∧ sameButRegsPc s t) ∧
    (∃ t f, exec (.subn x y) s = .next t ∧ f = (if (s.reg y).toNat > (s.reg x).toNat then 1 else 0) ∧
      (t.reg x).toNat = (s.secondRead y f + 256 - s.secondRead x f) % 256 ∧
      (x ≠ vf → (t.reg vf).toNat = f) ∧
      t.pc = s.pc + 2 ∧ sameRegsBut [x, vf] s t ∧ sameButRegsPc s t)

/-- 42_alu.md R150, R152: SHR and SHL of V[x] by one in both readings of VF_ORDER; y has no effect. VF is the bit shifted out
unless VF is the destination. -/
def Obligations.ShiftsMoveOneBitOut : Prop :=
  ∀ (x y : Reg) (s : State),
    decodeWord (BitVec.ofNat 16 (0x8006 + 0x100 * x.val + 0x10 * y.val)) = .ok (.shr x y) ∧
    decodeWord (BitVec.ofNat 16 (0x800E + 0x100 * x.val + 0x10 * y.val)) = .ok (.shl x y) ∧
    (∃ t f, exec (.shr x y) s = .next t ∧ f = (s.reg x).toNat % 2 ∧
      (t.reg x).toNat = s.secondRead x f / 2 ∧ (x ≠ vf → (t.reg vf).toNat = f) ∧
      t.pc = s.pc + 2 ∧ sameRegsBut [x, vf] s t ∧ sameButRegsPc s t) ∧
    (∃ t f, exec (.shl x y) s = .next t ∧ f = (s.reg x).toNat / 128 ∧
      (t.reg x).toNat = s.secondRead x f * 2 % 256 ∧ (x ≠ vf → (t.reg vf).toNat = f) ∧
      t.pc = s.pc + 2 ∧ sameRegsBut [x, vf] s t ∧ sameButRegsPc s t)

/-- 42_alu.md R153: RND masks the step's random byte, for every value of it. -/
def Obligations.RandomByteIsMasked : Prop :=
  ∀ (x : Reg) (kk : Byte) (s : State),
    decodeWord (BitVec.ofNat 16 (0xC000 + 0x100 * x.val + kk.toNat)) = .ok (.rnd x kk) ∧
    ∃ t, exec (.rnd x kk) s = .next t ∧
      (∀ k, (t.reg x).getLsbD k = (s.rnd.getLsbD k && kk.getLsbD k)) ∧ t.pc = s.pc + 2 ∧
      sameRegsBut [x] s t ∧ sameButRegsPc s t

/-! ## Address register and memory blocks -/

/-- 20_memory.md R61, R62, 00_scope.md R13 (decisions D3, D18): a write of one byte changes the byte at its address modulo
4096, at every address, and no other byte; a read uses its address modulo 4096. -/
def Obligations.MemoryPortUsesAddressesModulo4096 : Prop :=
  ∀ (s : State) (a b : Nat) (x : Byte),
    (s.memWrite a x).memRead b = (if b % 4096 = a % 4096 then x else s.memRead b) ∧
    s.memRead b = s.memRead (b % 4096)

/-- 43_index_memory.md R171 to R173: LD I, ADD I (modulo 2^16, no flag) and LD F (the whole byte times 5). -/
def Obligations.AddressRegisterWrites : Prop :=
  ∀ (x : Reg) (nnn : Addr12) (s : State),
    decodeWord (BitVec.ofNat 16 (0xA000 + nnn.toNat)) = .ok (.ldI nnn) ∧
    decodeWord (BitVec.ofNat 16 (0xF01E + 0x100 * x.val)) = .ok (.addI x) ∧
    decodeWord (BitVec.ofNat 16 (0xF029 + 0x100 * x.val)) = .ok (.ldF x) ∧
    (∃ t, exec (.ldI nnn) s = .next t ∧ t.i.toNat = nnn.toNat ∧ t.pc = s.pc + 2 ∧ sameButIPc s t) ∧
    (∃ t, exec (.addI x) s = .next t ∧ t.i.toNat = (s.i.toNat + (s.reg x).toNat) % 65536 ∧
      t.pc = s.pc + 2 ∧ sameButIPc s t) ∧
    (∃ t, exec (.ldF x) s = .next t ∧ t.i.toNat = (s.reg x).toNat * 5 ∧ t.pc = s.pc + 2 ∧ sameButIPc s t)

/-- 43_index_memory.md R174: LD B stores hundreds, tens and ones at I, I + 1 and I + 2 modulo 4096 and changes no other
byte, no register and not I. -/
def Obligations.DecimalDigitsAreStored : Prop :=
  ∀ (x : Reg) (s : State),
    decodeWord (BitVec.ofNat 16 (0xF033 + 0x100 * x.val)) = .ok (.ldB x) ∧
    ∃ t, exec (.ldB x) s = .next t ∧
      (t.memRead (s.i.toNat + 0)).toNat = (s.reg x).toNat / 100 ∧
      (t.memRead (s.i.toNat + 1)).toNat = (s.reg x).toNat / 10 % 10 ∧
      (t.memRead (s.i.toNat + 2)).toNat = (s.reg x).toNat % 10 ∧
      t.pc = s.pc + 2 ∧
      sameButStoresPc [s.effAddr 0, s.effAddr 1, s.effAddr 2] s t

/-- 43_index_memory.md R175: LD [I], Vx stores V[k] at I + k modulo 4096 for k = 0 .. x and changes no other byte, no
register and not I. -/
def Obligations.RegisterBlockIsStored : Prop :=
  ∀ (x : Reg) (s : State),
    decodeWord (BitVec.ofNat 16 (0xF055 + 0x100 * x.val)) = .ok (.ldMemStore x) ∧
    ∃ t, exec (.ldMemStore x) s = .next t ∧
      (∀ k : Reg, k.val ≤ x.val → t.memRead (s.i.toNat + k.val) = s.reg k) ∧ t.pc = s.pc + 2 ∧
      sameButStoresPc ((List.range (x.val + 1)).map s.effAddr) s t

/-- 43_index_memory.md R176: LD Vx, [I] loads V[k] from I + k modulo 4096 for k = 0 .. x; the registers above x, I and memory
are unchanged. -/
def Obligations.RegisterBlockIsLoaded : Prop :=
  ∀ (x : Reg) (s : State),
    decodeWord (BitVec.ofNat 16 (0xF065 + 0x100 * x.val)) = .ok (.ldMemLoad x) ∧
    ∃ t, exec (.ldMemLoad x) s = .next t ∧
      (∀ k : Reg, t.reg k = if k.val ≤ x.val then s.memRead (s.i.toNat + k.val) else s.reg k) ∧
      t.pc = s.pc + 2 ∧ sameButRegsPc s t

/-- 43_index_memory.md R175, R176: a block load with the I and memory a block store left gives the stored registers back. -/
def Obligations.BlockLoadUndoesBlockStore : Prop :=
  ∀ (x : Reg) (s t u w : State), exec (.ldMemStore x) s = .next t → u.i = s.i → sameMem t u →
    exec (.ldMemLoad x) u = .next w → ∀ k : Reg, k.val ≤ x.val → w.reg k = s.reg k

/-- 20_memory.md R70 ("derived" in the spec, decision D19): a byte stored by `Fx55` over the next instruction's bytes is what
the next step fetches. -/
def Obligations.StoredBytesAreFetchedNext : Prop :=
  ∀ (s t : State) (x k : Reg), s.fault = none → decodeWord s.fetchWord = .ok (.ldMemStore x) →
    k.val < x.val → (s.i.toNat + k.val) % 4096 = (s.pc.toNat + 2) % 4096 → step s = .next t →
    t.fetchWord.toNat = (s.reg k).toNat * 256 + (s.reg (k + 1)).toNat

/-! ## Display -/

/-- 44_display.md R190: CLS unlights every pixel and changes nothing else but PC. -/
def Obligations.ClearUnlightsEveryPixel : Prop :=
  decodeWord 0x00E0 = .ok .cls ∧
  ∀ s : State, ∃ t, exec .cls s = .next t ∧ (∀ r c, t.fb.pixel r c = false) ∧ t.pc = s.pc + 2 ∧
    sameRegsBut [] s t ∧ t.i = s.i ∧ sameMem s t ∧ sameStack s t ∧ sameTimers s t ∧ sameControl s t

/-- 44_display.md R191 to R193 (bit order: the spec's general knowledge G3 and decision D8, log 17; n = 0: decision D9): DRW
flips exactly the pixels under the sprite's 1-bits, and VF tells whether one of them was lit; nothing else changes but PC. -/
def Obligations.DrawFlipsCoveredPixelsAndReportsCollision : Prop :=
  ∀ (x y : Reg) (n : Fin 16) (s : State),
    decodeWord (BitVec.ofNat 16 (0xD000 + 0x100 * x.val + 0x10 * y.val + n.val)) = .ok (.drw x y n) ∧
    ∃ t, exec (.drw x y n) s = .next t ∧
      (∀ r c, s.spriteCovers x y n.val r c → t.fb.pixel r c = !s.fb.pixel r c) ∧
      (∀ r c, ¬ s.spriteCovers x y n.val r c → t.fb.pixel r c = s.fb.pixel r c) ∧
      ((∃ r c, s.spriteCovers x y n.val r c ∧ s.fb.pixel r c = true) → t.reg vf = 1) ∧
      ((¬ ∃ r c, s.spriteCovers x y n.val r c ∧ s.fb.pixel r c = true) → t.reg vf = 0) ∧
      t.pc = s.pc + 2 ∧ sameRegsBut [vf] s t ∧ t.i = s.i ∧ sameMem s t ∧ sameStack s t ∧
      sameTimers s t ∧ sameControl s t

/-- 44_display.md R194 (a) ("derived" in the spec): a second draw of the same sprite, with I, the sprite's bytes and the
coordinates as at the first, restores every pixel to its value before the first. -/
def Obligations.DrawingTwiceRestoresTheScreen : Prop :=
  ∀ (x y : Reg) (n : Fin 16) (s t u w : State), exec (.drw x y n) s = .next t →
    sameScreen t u → u.i = s.i → sameMem s u → u.reg x = s.reg x → u.reg y = s.reg y →
    exec (.drw x y n) u = .next w → sameScreen s w

/-- 44_display.md R194 (b) ("derived" in the spec, 90_conflicts.md C7), over the sprite's 1-bits in the bit order of R193 (the
spec's general knowledge and decision D8; log 17, PRESUMED): the second of two such draws sets VF = 1 exactly when
some 1-bit of the sprite lay over a pixel that was unlit before the first. -/
def Obligations.SecondDrawCollidesIffFirstLitAPixel : Prop :=
  ∀ (x y : Reg) (n : Fin 16) (s t u w : State), exec (.drw x y n) s = .next t →
    sameScreen t u → u.i = s.i → sameMem s u → u.reg x = s.reg x → u.reg y = s.reg y →
    exec (.drw x y n) u = .next w →
    (w.reg vf = 1 ↔ ∃ r c, s.spriteCovers x y n.val r c ∧ s.fb.pixel r c = false)

/-! ## Keys and timers -/

/-- 45_keys_timers.md R210 to R212 (decision D10): SKP and SKNP test key V[x] mod 16 and change PC only. -/
def Obligations.KeySkips : Prop :=
  ∀ (x : Reg) (s : State),
    decodeWord (BitVec.ofNat 16 (0xE09E + 0x100 * x.val)) = .ok (.skp x) ∧
    decodeWord (BitVec.ofNat 16 (0xE0A1 + 0x100 * x.val)) = .ok (.sknp x) ∧
    (∃ t, exec (.skp x) s = .next t ∧
      t.pc = s.pc + (if s.keys.getLsbD ((s.reg x).toNat % 16) then 4 else 2) ∧ sameButPc s t) ∧
    (∃ t, exec (.sknp x) s = .next t ∧
      t.pc = s.pc + (if s.keys.getLsbD ((s.reg x).toNat % 16) then 2 else 4) ∧ sameButPc s t)

/-- 45_keys_timers.md R213 (level semantics: decision D20): with a key pressed `Fx0A` takes the lowest pressed index and
advances; with none pressed it changes nothing at all. -/
def Obligations.KeyWaitTakesLowestPressedKey : Prop :=
  ∀ (x : Reg) (s : State),
    decodeWord (BitVec.ofNat 16 (0xF00A + 0x100 * x.val)) = .ok (.ldK x) ∧
    (∀ k, k < 16 → s.keys.getLsbD k = true → (∀ j, j < k → s.keys.getLsbD j = false) →
      ∃ t, exec (.ldK x) s = .next t ∧ (t.reg x).toNat = k ∧ t.pc = s.pc + 2 ∧
        sameRegsBut [x] s t ∧ sameButRegsPc s t) ∧
    (s.keys = 0 → exec (.ldK x) s = .next s)

/-- 45_keys_timers.md R214: LD Vx, DT takes DT as it stands when the instruction executes, which in a step is the value
after that step's countdown. -/
def Obligations.DelayTimerIsReadAfterCountdown : Prop :=
  ∀ (x : Reg) (s : State),
    decodeWord (BitVec.ofNat 16 (0xF007 + 0x100 * x.val)) = .ok (.ldVxDt x) ∧
    (∃ t, exec (.ldVxDt x) s = .next t ∧ t.reg x = s.dt ∧ t.pc = s.pc + 2 ∧
      sameRegsBut [x] s t ∧ sameButRegsPc s t) ∧
    (s.fault = none → s.fetchWord = BitVec.ofNat 16 (0xF007 + 0x100 * x.val) →
      ∃ t, step s = .next t ∧ (t.reg x).toNat = s.dt.toNat - 1)

/-- 45_keys_timers.md R215, R216, 10_state.md R47 (decision D22; the sentence of R216 on `sound_active` is "derived" in the
spec): LD DT, Vx and LD ST, Vx set their timer and change nothing else but PC; in a step the write
follows the countdown, so the timer holds V[x] at the step's end. -/
def Obligations.TimersAreSetAfterCountdown : Prop :=
  ∀ (x : Reg) (s : State),
    decodeWord (BitVec.ofNat 16 (0xF015 + 0x100 * x.val)) = .ok (.ldDtVx x) ∧
    decodeWord (BitVec.ofNat 16 (0xF018 + 0x100 * x.val)) = .ok (.ldStVx x) ∧
    (∃ t, exec (.ldDtVx x) s = .next t ∧ t.dt = s.reg x ∧ t.st = s.st ∧ t.pc = s.pc + 2 ∧
      sameButTimersPc s t) ∧
    (∃ t, exec (.ldStVx x) s = .next t ∧ t.st = s.reg x ∧ t.dt = s.dt ∧ t.pc = s.pc + 2 ∧
      sameButTimersPc s t) ∧
    (s.fault = none → s.fetchWord = BitVec.ofNat 16 (0xF015 + 0x100 * x.val) →
      ∃ t, step s = .next t ∧ t.dt = s.reg x) ∧
    (s.fault = none → s.fetchWord = BitVec.ofNat 16 (0xF018 + 0x100 * x.val) →
      ∃ t, step s = .next t ∧ t.st = s.reg x ∧ t.soundActive = decide (s.reg x ≠ 0))

/-! ## Reset, load, outputs, invariant -/

/-- 70_reset_and_hazards.md R260: Reset, from any state, with any variant, font and VF_ORDER, leaves every piece of the
spec's state at its reset value; `State.reset` is the reset with the default parameters. -/
def Obligations.ResetLeavesTheSpecValues : Prop :=
  (∀ (s : State) (variant : Variant) (font : Vector Byte 80) (order : VfOrder) (t : State),
    t = s.hostReset variant font order →
      t.variant = variant ∧ t.vfOrder = order ∧ (∀ r, t.reg r = 0) ∧
      t.pc = (match variant with | .normal => 0x0200 | .eti => 0x0600) ∧ t.i = 0 ∧ t.sp.val = 0 ∧
      (∀ k, t.stackEntry k = 0) ∧ t.dt = 0 ∧ t.st = 0 ∧
      (∀ k : Fin 80, t.memRead k.val = font[k.val]) ∧
      (∀ a, 80 ≤ a → a < 4096 → t.memRead a = 0) ∧
      (∀ r c, t.fb.pixel r c = false) ∧ t.keys = 0 ∧ t.fault = none) ∧
  ∀ font : Vector Byte 80, font.toList = defaultFont →
    State.resetWith .normal font .sequential = State.reset

/-- 10_state.md R42 (decisions D15, D16): Load puts byte k at PROGRAM_START + k while that is at most 0xFFF, drops the rest,
and changes nothing else, from a faulted state too. -/
def Obligations.LoadWritesFromProgramStart : Prop :=
  ∀ (s : State) (bytes : List Byte) (t : State), t = s.load bytes →
    (∀ a, a < 4096 →
      t.memRead a =
        if (programStart s.variant).toNat ≤ a then
          (bytes[a - (programStart s.variant).toNat]?).getD (s.memRead a)
        else s.memRead a) ∧
    t.pc = s.pc ∧ sameRegsBut [] s t ∧ t.i = s.i ∧ sameStack s t ∧ sameTimers s t ∧ sameScreen s t ∧
    sameControl s t

/-- 10_state.md R46 to R48 (decisions D14, D22, D27): the outputs are the row-major framebuffer, ST and whether it is
nonzero, and the fault record with the codes 0 to 3. -/
def Obligations.OutputsShowTheState : Prop :=
  ∀ s : State,
    (∀ (r : Fin 32) (c : Fin 64) (k : Fin 2048), k.val = r.val * 64 + c.val → s.fbOut k = s.fb.pixel r c) ∧
    s.stOut = s.st ∧ (s.soundActive = true ↔ s.st ≠ 0) ∧
    (s.fault = none → s.faultKindOut = 0 ∧ s.faultPcOut = 0 ∧ s.faultWordOut = 0) ∧
    ∀ r, s.fault = some r →
      s.faultPcOut = r.pc ∧ s.faultWordOut = r.word ∧
      s.faultKindOut = (match r.kind with | .decodeError => 1 | .stackOverflow => 2 | .stackUnderflow => 3)

/-- Every step, from every state that has it, keeps the invariant: memory stays in its canonical form inside the address
space, and a latched fault names PC and the word there, with the kind that word and SP cause (60_exceptions.md R231 to R236,
20_memory.md R60). The canonical form is the model's choice (log 9). -/
def Obligations.EveryStepKeepsTheInvariant : Prop :=
  ∀ s t : State, s.Inv → step s = .next t → t.Inv

/-- 70_reset_and_hazards.md R260: no fault is latched after Reset, with any parameters, so the invariant's clause on the latch
holds; its other half, that memory is in canonical form, is about the model's own choice (log 9, DESIGN CHOICE) and no
rule of the spec. -/
def Obligations.ResetHasTheInvariant : Prop :=
  State.reset.Inv ∧
  ∀ (s : State) (variant : Variant) (font : Vector Byte 80) (order : VfOrder),
    (s.hostReset variant font order).Inv
end

