-- ==== Sys2Proof/Laws/Memory.lean ====
section
/-! SUPPORT. The laws of memory: a read after a write, and that every operation keeps the canonical form. -/

namespace Sys2Proof.Machine

/-- Erasing an address makes it read as its reset contents and leaves every other address alone. -/
theorem Memory.read_erase (m : Memory) (a k : Nat) :
    Memory.read (Memory.erase m a) k = if k = a then resetByte k else Memory.read m k := by
  induction m with
  | nil => simp [Memory.erase, Memory.read]
  | cons c m ih =>
    obtain ⟨b, u⟩ := c
    by_cases hb : b = a
    · by_cases hk : k = a
      · subst hb hk; simpa [Memory.erase] using ih
      · have : ¬ a = k := fun h => hk h.symm
        simp [Memory.erase, Memory.read, hb, ih, hk, this]
    · by_cases hk : k = a
      · subst hk; simpa [Memory.erase, Memory.read, hb] using ih
      · simp [Memory.erase, Memory.read, hb, ih, hk]

/-- An erased address is not listed. -/
theorem Memory.not_mem_erase (m : Memory) (a : Nat) (u : Byte) : (a, u) ∉ Memory.erase m a := by
  induction m with
  | nil => simp [Memory.erase]
  | cons c m ih =>
    obtain ⟨b, w⟩ := c
    by_cases hb : b = a
    · simpa [Memory.erase, hb] using ih
    · simp [Memory.erase, hb, ih, Ne.symm hb]

/-- Listing a byte at an address not listed before. -/
theorem Memory.read_insert (m : Memory) (a : Nat) (x : Byte) (k : Nat) (hm : ∀ u, (a, u) ∉ m) :
    Memory.read (Memory.insert m a x) k = if k = a then x else Memory.read m k := by
  induction m with
  | nil => by_cases hk : a = k <;> simp [Memory.insert, Memory.read, hk, eq_comm]
  | cons c m ih =>
    obtain ⟨b, u⟩ := c
    have hb : b ≠ a := fun e => hm u (by simp [e])
    have ih := ih fun u hu => hm u (List.mem_cons_of_mem _ hu)
    by_cases hk : k = a
    · subst hk
      by_cases hlt : k < b <;> simp [Memory.insert, Memory.read, hlt, hb, ih]
    · have : ¬ a = k := fun e => hk e.symm
      by_cases hlt : a < b <;> simp [Memory.insert, Memory.read, hlt, hk, this, ih]

/-- A read after a write, for every memory: the written byte at its address, every other address as before. -/
@[simp] theorem Memory.read_write (m : Memory) (a : Nat) (x : Byte) (k : Nat) :
    Memory.read (Memory.write m a x) k = if k = a then x else Memory.read m k := by
  unfold Memory.write
  split
  next h => rw [Memory.read_erase]; by_cases hk : k = a <;> simp [hk, h]
  next =>
    rw [Memory.read_insert _ _ _ _ (Memory.not_mem_erase m a), Memory.read_erase]
    by_cases hk : k = a <;> simp [hk]

/-- A list in canonical form from `n` on is in canonical form from any earlier address on. -/
theorem Memory.wfFrom_of_le {m : Memory} {n k : Nat} (h : Memory.wfFrom n m = true) (hk : k ≤ n) :
    Memory.wfFrom k m = true := by
  cases m with
  | nil => rfl
  | cons c m =>
    obtain ⟨a, x⟩ := c
    simp only [Memory.wfFrom, Bool.and_eq_true, decide_eq_true_eq] at h ⊢
    exact ⟨⟨⟨by omega, h.1.1.2⟩, h.1.2⟩, h.2⟩

theorem Memory.wfFrom_erase {m : Memory} {n : Nat} (a : Nat) (h : Memory.wfFrom n m = true) :
    Memory.wfFrom n (Memory.erase m a) = true := by
  induction m generalizing n with
  | nil => rfl
  | cons c m ih =>
    obtain ⟨b, u⟩ := c
    simp only [Memory.wfFrom, Bool.and_eq_true, decide_eq_true_eq] at h
    by_cases hb : b = a
    · simp only [Memory.erase, hb, if_true]
      exact Memory.wfFrom_of_le (ih h.2) (by omega)
    · simp only [Memory.erase, hb, if_false, Memory.wfFrom, Bool.and_eq_true, decide_eq_true_eq]
      exact ⟨h.1, ih h.2⟩

theorem Memory.wfFrom_insert {m : Memory} {n a : Nat} {x : Byte} (h : Memory.wfFrom n m = true)
    (hm : ∀ u, (a, u) ∉ m) (hn : n ≤ a) (ha : a < memSize) (hx : x ≠ resetByte a) :
    Memory.wfFrom n (Memory.insert m a x) = true := by
  induction m generalizing n with
  | nil => simp [Memory.insert, Memory.wfFrom, hn, ha, hx]
  | cons c m ih =>
    obtain ⟨b, u⟩ := c
    have hb : b ≠ a := fun e => hm u (by simp [e])
    simp only [Memory.wfFrom, Bool.and_eq_true, decide_eq_true_eq] at h
    by_cases hlt : a < b
    · simp only [Memory.insert, hlt, if_true, Memory.wfFrom, Bool.and_eq_true, decide_eq_true_eq]
      exact ⟨⟨⟨hn, ha⟩, hx⟩, ⟨⟨by omega, h.1.1.2⟩, h.1.2⟩, h.2⟩
    · simp only [Memory.insert, hlt, if_false, Memory.wfFrom, Bool.and_eq_true, decide_eq_true_eq]
      exact ⟨h.1, ih h.2 (fun u hu => hm u (List.mem_cons_of_mem _ hu)) (by omega)⟩

/-- A write below the size of memory keeps the canonical form. -/
theorem Memory.wf_write {m : Memory} (a : Nat) (x : Byte) (h : Memory.wf m = true) (ha : a < memSize) :
    Memory.wf (Memory.write m a x) = true := by
  unfold Memory.wf Memory.write at *
  split
  next => exact Memory.wfFrom_erase a h
  next hx =>
    exact Memory.wfFrom_insert (Memory.wfFrom_erase a h) (Memory.not_mem_erase m a) (Nat.zero_le a) ha hx

/-- A block write inside memory keeps the canonical form. -/
theorem Memory.wf_writeUpTo {last : Nat} (hl : last < memSize) (xs : List Byte) {m : Memory} (a : Nat)
    (h : Memory.wf m = true) : Memory.wf (Memory.writeUpTo last m a xs) = true := by
  induction xs generalizing m a with
  | nil => exact h
  | cons x xs ih =>
    refine ih (a + 1) ?_
    split
    next ha => exact Memory.wf_write a x h (Nat.lt_of_le_of_lt ha hl)
    next => exact h

/-- What a block write leaves at an address: its byte of the block, if the block reaches it and it is not dropped. -/
theorem Memory.read_writeUpTo (last : Nat) (xs : List Byte) (m : Memory) (a k : Nat) :
    Memory.read (Memory.writeUpTo last m a xs) k =
      if a ≤ k ∧ k ≤ last then (xs[k - a]?).getD (Memory.read m k) else Memory.read m k := by
  induction xs generalizing m a with
  | nil => simp [Memory.writeUpTo]
  | cons x xs ih =>
    rw [Memory.writeUpTo, ih]
    by_cases hk : k = a
    · subst hk
      by_cases hl : k ≤ last <;> simp [hl]
    · have hr : Memory.read (if a ≤ last then Memory.write m a x else m) k = Memory.read m k := by
        split <;> simp [hk]
      rw [hr]
      by_cases h : a ≤ k ∧ k ≤ last
      · obtain ⟨d, rfl⟩ : ∃ d, k = a + 1 + d := ⟨k - a - 1, by omega⟩
        have h1 : a + 1 + d - a = d + 1 := by omega
        have h2 : a + 1 + d - (a + 1) = d := by omega
        rw [if_pos h, if_pos ⟨by omega, h.2⟩, h1, h2, List.getElem?_cons_succ]
      · rw [if_neg h, if_neg (by omega)]

/-- Outside the font the reset contents are zero. -/
theorem resetByte_of_ge {a : Nat} (h : 80 ≤ a) : resetByte a = 0 := by
  have hl : defaultFont.length ≤ a := by simpa [defaultFont, glyphsLow, glyphsHigh] using h
  rw [resetByte, List.getElem?_eq_none hl]; rfl

end Sys2Proof.Machine
end

