-- ==== Sys2Proof/Laws/State.lean ====
section
/-! SUPPORT. One lemma for each field of State after each update of State, and for each observer that reads one field only. -/

namespace Sys2Proof.Machine

variable (s : State)

/-! `setReg` -/

@[simp] theorem State.setReg_v (x : Reg) (b : Byte) : (s.setReg x b).v = s.v.set x.val b := rfl
@[simp] theorem State.setReg_pc (x : Reg) (b : Byte) : (s.setReg x b).pc = s.pc := rfl
@[simp] theorem State.setReg_i (x : Reg) (b : Byte) : (s.setReg x b).i = s.i := rfl
@[simp] theorem State.setReg_stack (x : Reg) (b : Byte) : (s.setReg x b).stack = s.stack := rfl
@[simp] theorem State.setReg_sp (x : Reg) (b : Byte) : (s.setReg x b).sp = s.sp := rfl
@[simp] theorem State.setReg_dt (x : Reg) (b : Byte) : (s.setReg x b).dt = s.dt := rfl
@[simp] theorem State.setReg_st (x : Reg) (b : Byte) : (s.setReg x b).st = s.st := rfl
@[simp] theorem State.setReg_mem (x : Reg) (b : Byte) : (s.setReg x b).mem = s.mem := rfl
@[simp] theorem State.setReg_fb (x : Reg) (b : Byte) : (s.setReg x b).fb = s.fb := rfl
@[simp] theorem State.setReg_keys (x : Reg) (b : Byte) : (s.setReg x b).keys = s.keys := rfl
@[simp] theorem State.setReg_fault (x : Reg) (b : Byte) : (s.setReg x b).fault = s.fault := rfl
@[simp] theorem State.setReg_variant (x : Reg) (b : Byte) : (s.setReg x b).variant = s.variant := rfl
@[simp] theorem State.setReg_vfOrder (x : Reg) (b : Byte) : (s.setReg x b).vfOrder = s.vfOrder := rfl
@[simp] theorem State.setReg_rnd (x : Reg) (b : Byte) : (s.setReg x b).rnd = s.rnd := rfl
@[simp] theorem State.setReg_inputs (x : Reg) (b : Byte) : (s.setReg x b).inputs = s.inputs := rfl
@[simp] theorem State.setReg_tick (x : Reg) (b : Byte) : (s.setReg x b).tick = s.tick := rfl
@[simp] theorem State.setReg_memRead (x : Reg) (b : Byte) (k : Nat) : (s.setReg x b).memRead k = s.memRead k := rfl
@[simp] theorem State.setReg_stackEntry (x : Reg) (b : Byte) (k : Fin 16) : (s.setReg x b).stackEntry k = s.stackEntry k := rfl
@[simp] theorem State.setReg_effAddr (x : Reg) (b : Byte) (k : Nat) : (s.setReg x b).effAddr k = s.effAddr k := rfl
@[simp] theorem State.setReg_keyPressed (x : Reg) (b : Byte) (k : Nat) : (s.setReg x b).keyPressed k = s.keyPressed k := rfl
@[simp] theorem State.setReg_fetchWord (x : Reg) (b : Byte) : (s.setReg x b).fetchWord = s.fetchWord := rfl

/-! `setPc` -/

@[simp] theorem State.setPc_v (a : Word) : (s.setPc a).v = s.v := rfl
@[simp] theorem State.setPc_pc (a : Word) : (s.setPc a).pc = a := rfl
@[simp] theorem State.setPc_i (a : Word) : (s.setPc a).i = s.i := rfl
@[simp] theorem State.setPc_stack (a : Word) : (s.setPc a).stack = s.stack := rfl
@[simp] theorem State.setPc_sp (a : Word) : (s.setPc a).sp = s.sp := rfl
@[simp] theorem State.setPc_dt (a : Word) : (s.setPc a).dt = s.dt := rfl
@[simp] theorem State.setPc_st (a : Word) : (s.setPc a).st = s.st := rfl
@[simp] theorem State.setPc_mem (a : Word) : (s.setPc a).mem = s.mem := rfl
@[simp] theorem State.setPc_fb (a : Word) : (s.setPc a).fb = s.fb := rfl
@[simp] theorem State.setPc_keys (a : Word) : (s.setPc a).keys = s.keys := rfl
@[simp] theorem State.setPc_fault (a : Word) : (s.setPc a).fault = s.fault := rfl
@[simp] theorem State.setPc_variant (a : Word) : (s.setPc a).variant = s.variant := rfl
@[simp] theorem State.setPc_vfOrder (a : Word) : (s.setPc a).vfOrder = s.vfOrder := rfl
@[simp] theorem State.setPc_rnd (a : Word) : (s.setPc a).rnd = s.rnd := rfl
@[simp] theorem State.setPc_inputs (a : Word) : (s.setPc a).inputs = s.inputs := rfl
@[simp] theorem State.setPc_tick (a : Word) : (s.setPc a).tick = s.tick := rfl
@[simp] theorem State.setPc_reg (a : Word) (r : Reg) : (s.setPc a).reg r = s.reg r := rfl
@[simp] theorem State.setPc_memRead (a : Word) (k : Nat) : (s.setPc a).memRead k = s.memRead k := rfl
@[simp] theorem State.setPc_stackEntry (a : Word) (k : Fin 16) : (s.setPc a).stackEntry k = s.stackEntry k := rfl
@[simp] theorem State.setPc_effAddr (a : Word) (k : Nat) : (s.setPc a).effAddr k = s.effAddr k := rfl
@[simp] theorem State.setPc_keyPressed (a : Word) (k : Nat) : (s.setPc a).keyPressed k = s.keyPressed k := rfl

/-! `advance` -/

@[simp] theorem State.advance_v : s.advance.v = s.v := rfl
@[simp] theorem State.advance_pc : s.advance.pc = s.pc + 2 := rfl
@[simp] theorem State.advance_i : s.advance.i = s.i := rfl
@[simp] theorem State.advance_stack : s.advance.stack = s.stack := rfl
@[simp] theorem State.advance_sp : s.advance.sp = s.sp := rfl
@[simp] theorem State.advance_dt : s.advance.dt = s.dt := rfl
@[simp] theorem State.advance_st : s.advance.st = s.st := rfl
@[simp] theorem State.advance_mem : s.advance.mem = s.mem := rfl
@[simp] theorem State.advance_fb : s.advance.fb = s.fb := rfl
@[simp] theorem State.advance_keys : s.advance.keys = s.keys := rfl
@[simp] theorem State.advance_fault : s.advance.fault = s.fault := rfl
@[simp] theorem State.advance_variant : s.advance.variant = s.variant := rfl
@[simp] theorem State.advance_vfOrder : s.advance.vfOrder = s.vfOrder := rfl
@[simp] theorem State.advance_rnd : s.advance.rnd = s.rnd := rfl
@[simp] theorem State.advance_inputs : s.advance.inputs = s.inputs := rfl
@[simp] theorem State.advance_tick : s.advance.tick = s.tick := rfl
@[simp] theorem State.advance_reg (r : Reg) : s.advance.reg r = s.reg r := rfl
@[simp] theorem State.advance_memRead (k : Nat) : s.advance.memRead k = s.memRead k := rfl
@[simp] theorem State.advance_stackEntry (k : Fin 16) : s.advance.stackEntry k = s.stackEntry k := rfl
@[simp] theorem State.advance_effAddr (k : Nat) : s.advance.effAddr k = s.effAddr k := rfl
@[simp] theorem State.advance_keyPressed (k : Nat) : s.advance.keyPressed k = s.keyPressed k := rfl

/-! `skipIf` -/

@[simp] theorem State.skipIf_v (c : Bool) : (s.skipIf c).v = s.v := rfl
@[simp] theorem State.skipIf_pc (c : Bool) : (s.skipIf c).pc = if c then s.pc + 4 else s.pc + 2 := rfl
@[simp] theorem State.skipIf_i (c : Bool) : (s.skipIf c).i = s.i := rfl
@[simp] theorem State.skipIf_stack (c : Bool) : (s.skipIf c).stack = s.stack := rfl
@[simp] theorem State.skipIf_sp (c : Bool) : (s.skipIf c).sp = s.sp := rfl
@[simp] theorem State.skipIf_dt (c : Bool) : (s.skipIf c).dt = s.dt := rfl
@[simp] theorem State.skipIf_st (c : Bool) : (s.skipIf c).st = s.st := rfl
@[simp] theorem State.skipIf_mem (c : Bool) : (s.skipIf c).mem = s.mem := rfl
@[simp] theorem State.skipIf_fb (c : Bool) : (s.skipIf c).fb = s.fb := rfl
@[simp] theorem State.skipIf_keys (c : Bool) : (s.skipIf c).keys = s.keys := rfl
@[simp] theorem State.skipIf_fault (c : Bool) : (s.skipIf c).fault = s.fault := rfl
@[simp] theorem State.skipIf_variant (c : Bool) : (s.skipIf c).variant = s.variant := rfl
@[simp] theorem State.skipIf_vfOrder (c : Bool) : (s.skipIf c).vfOrder = s.vfOrder := rfl
@[simp] theorem State.skipIf_rnd (c : Bool) : (s.skipIf c).rnd = s.rnd := rfl
@[simp] theorem State.skipIf_inputs (c : Bool) : (s.skipIf c).inputs = s.inputs := rfl
@[simp] theorem State.skipIf_tick (c : Bool) : (s.skipIf c).tick = s.tick := rfl
@[simp] theorem State.skipIf_reg (c : Bool) (r : Reg) : (s.skipIf c).reg r = s.reg r := rfl
@[simp] theorem State.skipIf_memRead (c : Bool) (k : Nat) : (s.skipIf c).memRead k = s.memRead k := rfl
@[simp] theorem State.skipIf_stackEntry (c : Bool) (k : Fin 16) : (s.skipIf c).stackEntry k = s.stackEntry k := rfl
@[simp] theorem State.skipIf_effAddr (c : Bool) (k : Nat) : (s.skipIf c).effAddr k = s.effAddr k := rfl
@[simp] theorem State.skipIf_keyPressed (c : Bool) (k : Nat) : (s.skipIf c).keyPressed k = s.keyPressed k := rfl

/-! `setI` -/

@[simp] theorem State.setI_v (a : Word) : (s.setI a).v = s.v := rfl
@[simp] theorem State.setI_pc (a : Word) : (s.setI a).pc = s.pc := rfl
@[simp] theorem State.setI_i (a : Word) : (s.setI a).i = a := rfl
@[simp] theorem State.setI_stack (a : Word) : (s.setI a).stack = s.stack := rfl
@[simp] theorem State.setI_sp (a : Word) : (s.setI a).sp = s.sp := rfl
@[simp] theorem State.setI_dt (a : Word) : (s.setI a).dt = s.dt := rfl
@[simp] theorem State.setI_st (a : Word) : (s.setI a).st = s.st := rfl
@[simp] theorem State.setI_mem (a : Word) : (s.setI a).mem = s.mem := rfl
@[simp] theorem State.setI_fb (a : Word) : (s.setI a).fb = s.fb := rfl
@[simp] theorem State.setI_keys (a : Word) : (s.setI a).keys = s.keys := rfl
@[simp] theorem State.setI_fault (a : Word) : (s.setI a).fault = s.fault := rfl
@[simp] theorem State.setI_variant (a : Word) : (s.setI a).variant = s.variant := rfl
@[simp] theorem State.setI_vfOrder (a : Word) : (s.setI a).vfOrder = s.vfOrder := rfl
@[simp] theorem State.setI_rnd (a : Word) : (s.setI a).rnd = s.rnd := rfl
@[simp] theorem State.setI_inputs (a : Word) : (s.setI a).inputs = s.inputs := rfl
@[simp] theorem State.setI_tick (a : Word) : (s.setI a).tick = s.tick := rfl
@[simp] theorem State.setI_reg (a : Word) (r : Reg) : (s.setI a).reg r = s.reg r := rfl
@[simp] theorem State.setI_memRead (a : Word) (k : Nat) : (s.setI a).memRead k = s.memRead k := rfl
@[simp] theorem State.setI_stackEntry (a : Word) (k : Fin 16) : (s.setI a).stackEntry k = s.stackEntry k := rfl
@[simp] theorem State.setI_keyPressed (a : Word) (k : Nat) : (s.setI a).keyPressed k = s.keyPressed k := rfl
@[simp] theorem State.setI_fetchWord (a : Word) : (s.setI a).fetchWord = s.fetchWord := rfl

/-! `setDt` -/

@[simp] theorem State.setDt_v (b : Byte) : (s.setDt b).v = s.v := rfl
@[simp] theorem State.setDt_pc (b : Byte) : (s.setDt b).pc = s.pc := rfl
@[simp] theorem State.setDt_i (b : Byte) : (s.setDt b).i = s.i := rfl
@[simp] theorem State.setDt_stack (b : Byte) : (s.setDt b).stack = s.stack := rfl
@[simp] theorem State.setDt_sp (b : Byte) : (s.setDt b).sp = s.sp := rfl
@[simp] theorem State.setDt_dt (b : Byte) : (s.setDt b).dt = b := rfl
@[simp] theorem State.setDt_st (b : Byte) : (s.setDt b).st = s.st := rfl
@[simp] theorem State.setDt_mem (b : Byte) : (s.setDt b).mem = s.mem := rfl
@[simp] theorem State.setDt_fb (b : Byte) : (s.setDt b).fb = s.fb := rfl
@[simp] theorem State.setDt_keys (b : Byte) : (s.setDt b).keys = s.keys := rfl
@[simp] theorem State.setDt_fault (b : Byte) : (s.setDt b).fault = s.fault := rfl
@[simp] theorem State.setDt_variant (b : Byte) : (s.setDt b).variant = s.variant := rfl
@[simp] theorem State.setDt_vfOrder (b : Byte) : (s.setDt b).vfOrder = s.vfOrder := rfl
@[simp] theorem State.setDt_rnd (b : Byte) : (s.setDt b).rnd = s.rnd := rfl
@[simp] theorem State.setDt_inputs (b : Byte) : (s.setDt b).inputs = s.inputs := rfl
@[simp] theorem State.setDt_tick (b : Byte) : (s.setDt b).tick = s.tick := rfl
@[simp] theorem State.setDt_reg (b : Byte) (r : Reg) : (s.setDt b).reg r = s.reg r := rfl
@[simp] theorem State.setDt_memRead (b : Byte) (k : Nat) : (s.setDt b).memRead k = s.memRead k := rfl
@[simp] theorem State.setDt_stackEntry (b : Byte) (k : Fin 16) : (s.setDt b).stackEntry k = s.stackEntry k := rfl
@[simp] theorem State.setDt_effAddr (b : Byte) (k : Nat) : (s.setDt b).effAddr k = s.effAddr k := rfl
@[simp] theorem State.setDt_keyPressed (b : Byte) (k : Nat) : (s.setDt b).keyPressed k = s.keyPressed k := rfl
@[simp] theorem State.setDt_fetchWord (b : Byte) : (s.setDt b).fetchWord = s.fetchWord := rfl

/-! `setSt` -/

@[simp] theorem State.setSt_v (b : Byte) : (s.setSt b).v = s.v := rfl
@[simp] theorem State.setSt_pc (b : Byte) : (s.setSt b).pc = s.pc := rfl
@[simp] theorem State.setSt_i (b : Byte) : (s.setSt b).i = s.i := rfl
@[simp] theorem State.setSt_stack (b : Byte) : (s.setSt b).stack = s.stack := rfl
@[simp] theorem State.setSt_sp (b : Byte) : (s.setSt b).sp = s.sp := rfl
@[simp] theorem State.setSt_dt (b : Byte) : (s.setSt b).dt = s.dt := rfl
@[simp] theorem State.setSt_st (b : Byte) : (s.setSt b).st = b := rfl
@[simp] theorem State.setSt_mem (b : Byte) : (s.setSt b).mem = s.mem := rfl
@[simp] theorem State.setSt_fb (b : Byte) : (s.setSt b).fb = s.fb := rfl
@[simp] theorem State.setSt_keys (b : Byte) : (s.setSt b).keys = s.keys := rfl
@[simp] theorem State.setSt_fault (b : Byte) : (s.setSt b).fault = s.fault := rfl
@[simp] theorem State.setSt_variant (b : Byte) : (s.setSt b).variant = s.variant := rfl
@[simp] theorem State.setSt_vfOrder (b : Byte) : (s.setSt b).vfOrder = s.vfOrder := rfl
@[simp] theorem State.setSt_rnd (b : Byte) : (s.setSt b).rnd = s.rnd := rfl
@[simp] theorem State.setSt_inputs (b : Byte) : (s.setSt b).inputs = s.inputs := rfl
@[simp] theorem State.setSt_tick (b : Byte) : (s.setSt b).tick = s.tick := rfl
@[simp] theorem State.setSt_reg (b : Byte) (r : Reg) : (s.setSt b).reg r = s.reg r := rfl
@[simp] theorem State.setSt_memRead (b : Byte) (k : Nat) : (s.setSt b).memRead k = s.memRead k := rfl
@[simp] theorem State.setSt_stackEntry (b : Byte) (k : Fin 16) : (s.setSt b).stackEntry k = s.stackEntry k := rfl
@[simp] theorem State.setSt_effAddr (b : Byte) (k : Nat) : (s.setSt b).effAddr k = s.effAddr k := rfl
@[simp] theorem State.setSt_keyPressed (b : Byte) (k : Nat) : (s.setSt b).keyPressed k = s.keyPressed k := rfl
@[simp] theorem State.setSt_fetchWord (b : Byte) : (s.setSt b).fetchWord = s.fetchWord := rfl

/-! `memWrite` -/

@[simp] theorem State.memWrite_v (a : Nat) (x : Byte) : (s.memWrite a x).v = s.v := rfl
@[simp] theorem State.memWrite_pc (a : Nat) (x : Byte) : (s.memWrite a x).pc = s.pc := rfl
@[simp] theorem State.memWrite_i (a : Nat) (x : Byte) : (s.memWrite a x).i = s.i := rfl
@[simp] theorem State.memWrite_stack (a : Nat) (x : Byte) : (s.memWrite a x).stack = s.stack := rfl
@[simp] theorem State.memWrite_sp (a : Nat) (x : Byte) : (s.memWrite a x).sp = s.sp := rfl
@[simp] theorem State.memWrite_dt (a : Nat) (x : Byte) : (s.memWrite a x).dt = s.dt := rfl
@[simp] theorem State.memWrite_st (a : Nat) (x : Byte) : (s.memWrite a x).st = s.st := rfl
@[simp] theorem State.memWrite_mem (a : Nat) (x : Byte) : (s.memWrite a x).mem = Memory.write s.mem (translate a) x := rfl
@[simp] theorem State.memWrite_fb (a : Nat) (x : Byte) : (s.memWrite a x).fb = s.fb := rfl
@[simp] theorem State.memWrite_keys (a : Nat) (x : Byte) : (s.memWrite a x).keys = s.keys := rfl
@[simp] theorem State.memWrite_fault (a : Nat) (x : Byte) : (s.memWrite a x).fault = s.fault := rfl
@[simp] theorem State.memWrite_variant (a : Nat) (x : Byte) : (s.memWrite a x).variant = s.variant := rfl
@[simp] theorem State.memWrite_vfOrder (a : Nat) (x : Byte) : (s.memWrite a x).vfOrder = s.vfOrder := rfl
@[simp] theorem State.memWrite_rnd (a : Nat) (x : Byte) : (s.memWrite a x).rnd = s.rnd := rfl
@[simp] theorem State.memWrite_inputs (a : Nat) (x : Byte) : (s.memWrite a x).inputs = s.inputs := rfl
@[simp] theorem State.memWrite_tick (a : Nat) (x : Byte) : (s.memWrite a x).tick = s.tick := rfl
@[simp] theorem State.memWrite_reg (a : Nat) (x : Byte) (r : Reg) : (s.memWrite a x).reg r = s.reg r := rfl
@[simp] theorem State.memWrite_stackEntry (a : Nat) (x : Byte) (k : Fin 16) : (s.memWrite a x).stackEntry k = s.stackEntry k := rfl
@[simp] theorem State.memWrite_effAddr (a : Nat) (x : Byte) (k : Nat) : (s.memWrite a x).effAddr k = s.effAddr k := rfl
@[simp] theorem State.memWrite_keyPressed (a : Nat) (x : Byte) (k : Nat) : (s.memWrite a x).keyPressed k = s.keyPressed k := rfl

/-! `push` -/

@[simp] theorem State.push_v (a : Word) : (s.push a).v = s.v := rfl
@[simp] theorem State.push_pc (a : Word) : (s.push a).pc = s.pc := rfl
@[simp] theorem State.push_i (a : Word) : (s.push a).i = s.i := rfl
@[simp] theorem State.push_stack (a : Word) : (s.push a).stack = s.stack.setIfInBounds s.sp.val a := rfl
@[simp] theorem State.push_sp (a : Word) : (s.push a).sp = Fin.ofNat 17 (s.sp.val + 1) := rfl
@[simp] theorem State.push_dt (a : Word) : (s.push a).dt = s.dt := rfl
@[simp] theorem State.push_st (a : Word) : (s.push a).st = s.st := rfl
@[simp] theorem State.push_mem (a : Word) : (s.push a).mem = s.mem := rfl
@[simp] theorem State.push_fb (a : Word) : (s.push a).fb = s.fb := rfl
@[simp] theorem State.push_keys (a : Word) : (s.push a).keys = s.keys := rfl
@[simp] theorem State.push_fault (a : Word) : (s.push a).fault = s.fault := rfl
@[simp] theorem State.push_variant (a : Word) : (s.push a).variant = s.variant := rfl
@[simp] theorem State.push_vfOrder (a : Word) : (s.push a).vfOrder = s.vfOrder := rfl
@[simp] theorem State.push_rnd (a : Word) : (s.push a).rnd = s.rnd := rfl
@[simp] theorem State.push_inputs (a : Word) : (s.push a).inputs = s.inputs := rfl
@[simp] theorem State.push_tick (a : Word) : (s.push a).tick = s.tick := rfl
@[simp] theorem State.push_reg (a : Word) (r : Reg) : (s.push a).reg r = s.reg r := rfl
@[simp] theorem State.push_memRead (a : Word) (k : Nat) : (s.push a).memRead k = s.memRead k := rfl
@[simp] theorem State.push_effAddr (a : Word) (k : Nat) : (s.push a).effAddr k = s.effAddr k := rfl
@[simp] theorem State.push_keyPressed (a : Word) (k : Nat) : (s.push a).keyPressed k = s.keyPressed k := rfl
@[simp] theorem State.push_fetchWord (a : Word) : (s.push a).fetchWord = s.fetchWord := rfl

/-! `pop` -/

@[simp] theorem State.pop_v : s.pop.v = s.v := rfl
@[simp] theorem State.pop_pc : s.pop.pc = s.pc := rfl
@[simp] theorem State.pop_i : s.pop.i = s.i := rfl
@[simp] theorem State.pop_stack : s.pop.stack = s.stack := rfl
@[simp] theorem State.pop_sp : s.pop.sp = Fin.ofNat 17 (s.sp.val - 1) := rfl
@[simp] theorem State.pop_dt : s.pop.dt = s.dt := rfl
@[simp] theorem State.pop_st : s.pop.st = s.st := rfl
@[simp] theorem State.pop_mem : s.pop.mem = s.mem := rfl
@[simp] theorem State.pop_fb : s.pop.fb = s.fb := rfl
@[simp] theorem State.pop_keys : s.pop.keys = s.keys := rfl
@[simp] theorem State.pop_fault : s.pop.fault = s.fault := rfl
@[simp] theorem State.pop_variant : s.pop.variant = s.variant := rfl
@[simp] theorem State.pop_vfOrder : s.pop.vfOrder = s.vfOrder := rfl
@[simp] theorem State.pop_rnd : s.pop.rnd = s.rnd := rfl
@[simp] theorem State.pop_inputs : s.pop.inputs = s.inputs := rfl
@[simp] theorem State.pop_tick : s.pop.tick = s.tick := rfl
@[simp] theorem State.pop_reg (r : Reg) : s.pop.reg r = s.reg r := rfl
@[simp] theorem State.pop_memRead (k : Nat) : s.pop.memRead k = s.memRead k := rfl
@[simp] theorem State.pop_stackEntry (k : Fin 16) : s.pop.stackEntry k = s.stackEntry k := rfl
@[simp] theorem State.pop_effAddr (k : Nat) : s.pop.effAddr k = s.effAddr k := rfl
@[simp] theorem State.pop_keyPressed (k : Nat) : s.pop.keyPressed k = s.keyPressed k := rfl
@[simp] theorem State.pop_fetchWord : s.pop.fetchWord = s.fetchWord := rfl

/-! `setFb` -/

@[simp] theorem State.setFb_v (fb : Framebuffer) : (s.setFb fb).v = s.v := rfl
@[simp] theorem State.setFb_pc (fb : Framebuffer) : (s.setFb fb).pc = s.pc := rfl
@[simp] theorem State.setFb_i (fb : Framebuffer) : (s.setFb fb).i = s.i := rfl
@[simp] theorem State.setFb_stack (fb : Framebuffer) : (s.setFb fb).stack = s.stack := rfl
@[simp] theorem State.setFb_sp (fb : Framebuffer) : (s.setFb fb).sp = s.sp := rfl
@[simp] theorem State.setFb_dt (fb : Framebuffer) : (s.setFb fb).dt = s.dt := rfl
@[simp] theorem State.setFb_st (fb : Framebuffer) : (s.setFb fb).st = s.st := rfl
@[simp] theorem State.setFb_mem (fb : Framebuffer) : (s.setFb fb).mem = s.mem := rfl
@[simp] theorem State.setFb_fb (fb : Framebuffer) : (s.setFb fb).fb = fb := rfl
@[simp] theorem State.setFb_keys (fb : Framebuffer) : (s.setFb fb).keys = s.keys := rfl
@[simp] theorem State.setFb_fault (fb : Framebuffer) : (s.setFb fb).fault = s.fault := rfl
@[simp] theorem State.setFb_variant (fb : Framebuffer) : (s.setFb fb).variant = s.variant := rfl
@[simp] theorem State.setFb_vfOrder (fb : Framebuffer) : (s.setFb fb).vfOrder = s.vfOrder := rfl
@[simp] theorem State.setFb_rnd (fb : Framebuffer) : (s.setFb fb).rnd = s.rnd := rfl
@[simp] theorem State.setFb_inputs (fb : Framebuffer) : (s.setFb fb).inputs = s.inputs := rfl
@[simp] theorem State.setFb_tick (fb : Framebuffer) : (s.setFb fb).tick = s.tick := rfl
@[simp] theorem State.setFb_reg (fb : Framebuffer) (r : Reg) : (s.setFb fb).reg r = s.reg r := rfl
@[simp] theorem State.setFb_memRead (fb : Framebuffer) (k : Nat) : (s.setFb fb).memRead k = s.memRead k := rfl
@[simp] theorem State.setFb_stackEntry (fb : Framebuffer) (k : Fin 16) : (s.setFb fb).stackEntry k = s.stackEntry k := rfl
@[simp] theorem State.setFb_effAddr (fb : Framebuffer) (k : Nat) : (s.setFb fb).effAddr k = s.effAddr k := rfl
@[simp] theorem State.setFb_keyPressed (fb : Framebuffer) (k : Nat) : (s.setFb fb).keyPressed k = s.keyPressed k := rfl
@[simp] theorem State.setFb_fetchWord (fb : Framebuffer) : (s.setFb fb).fetchWord = s.fetchWord := rfl

/-! `sampleInputs` -/

@[simp] theorem State.sampleInputs_v : s.sampleInputs.v = s.v := rfl
@[simp] theorem State.sampleInputs_pc : s.sampleInputs.pc = s.pc := rfl
@[simp] theorem State.sampleInputs_i : s.sampleInputs.i = s.i := rfl
@[simp] theorem State.sampleInputs_stack : s.sampleInputs.stack = s.stack := rfl
@[simp] theorem State.sampleInputs_sp : s.sampleInputs.sp = s.sp := rfl
@[simp] theorem State.sampleInputs_dt : s.sampleInputs.dt = s.dt := rfl
@[simp] theorem State.sampleInputs_st : s.sampleInputs.st = s.st := rfl
@[simp] theorem State.sampleInputs_mem : s.sampleInputs.mem = s.mem := rfl
@[simp] theorem State.sampleInputs_fb : s.sampleInputs.fb = s.fb := rfl
@[simp] theorem State.sampleInputs_keys : s.sampleInputs.keys = s.nextInput.keys := rfl
@[simp] theorem State.sampleInputs_fault : s.sampleInputs.fault = s.fault := rfl
@[simp] theorem State.sampleInputs_variant : s.sampleInputs.variant = s.variant := rfl
@[simp] theorem State.sampleInputs_vfOrder : s.sampleInputs.vfOrder = s.vfOrder := rfl
@[simp] theorem State.sampleInputs_rnd : s.sampleInputs.rnd = s.nextInput.rnd := rfl
@[simp] theorem State.sampleInputs_inputs : s.sampleInputs.inputs = s.inputs.tail := rfl
@[simp] theorem State.sampleInputs_tick : s.sampleInputs.tick = if s.inputs.isEmpty then s.tick + 1 else s.tick := rfl
@[simp] theorem State.sampleInputs_reg (r : Reg) : s.sampleInputs.reg r = s.reg r := rfl
@[simp] theorem State.sampleInputs_memRead (k : Nat) : s.sampleInputs.memRead k = s.memRead k := rfl
@[simp] theorem State.sampleInputs_stackEntry (k : Fin 16) : s.sampleInputs.stackEntry k = s.stackEntry k := rfl
@[simp] theorem State.sampleInputs_effAddr (k : Nat) : s.sampleInputs.effAddr k = s.effAddr k := rfl
@[simp] theorem State.sampleInputs_fetchWord : s.sampleInputs.fetchWord = s.fetchWord := rfl

/-! `countdown` -/

@[simp] theorem State.countdown_v : s.countdown.v = s.v := rfl
@[simp] theorem State.countdown_pc : s.countdown.pc = s.pc := rfl
@[simp] theorem State.countdown_i : s.countdown.i = s.i := rfl
@[simp] theorem State.countdown_stack : s.countdown.stack = s.stack := rfl
@[simp] theorem State.countdown_sp : s.countdown.sp = s.sp := rfl
@[simp] theorem State.countdown_dt : s.countdown.dt = timerDown s.dt := rfl
@[simp] theorem State.countdown_st : s.countdown.st = timerDown s.st := rfl
@[simp] theorem State.countdown_mem : s.countdown.mem = s.mem := rfl
@[simp] theorem State.countdown_fb : s.countdown.fb = s.fb := rfl
@[simp] theorem State.countdown_keys : s.countdown.keys = s.keys := rfl
@[simp] theorem State.countdown_fault : s.countdown.fault = s.fault := rfl
@[simp] theorem State.countdown_variant : s.countdown.variant = s.variant := rfl
@[simp] theorem State.countdown_vfOrder : s.countdown.vfOrder = s.vfOrder := rfl
@[simp] theorem State.countdown_rnd : s.countdown.rnd = s.rnd := rfl
@[simp] theorem State.countdown_inputs : s.countdown.inputs = s.inputs := rfl
@[simp] theorem State.countdown_tick : s.countdown.tick = s.tick := rfl
@[simp] theorem State.countdown_reg (r : Reg) : s.countdown.reg r = s.reg r := rfl
@[simp] theorem State.countdown_memRead (k : Nat) : s.countdown.memRead k = s.memRead k := rfl
@[simp] theorem State.countdown_stackEntry (k : Fin 16) : s.countdown.stackEntry k = s.stackEntry k := rfl
@[simp] theorem State.countdown_effAddr (k : Nat) : s.countdown.effAddr k = s.effAddr k := rfl
@[simp] theorem State.countdown_keyPressed (k : Nat) : s.countdown.keyPressed k = s.keyPressed k := rfl
@[simp] theorem State.countdown_fetchWord : s.countdown.fetchWord = s.fetchWord := rfl

/-! `beforeExec` -/

@[simp] theorem State.beforeExec_v : s.beforeExec.v = s.v := rfl
@[simp] theorem State.beforeExec_pc : s.beforeExec.pc = s.pc := rfl
@[simp] theorem State.beforeExec_i : s.beforeExec.i = s.i := rfl
@[simp] theorem State.beforeExec_stack : s.beforeExec.stack = s.stack := rfl
@[simp] theorem State.beforeExec_sp : s.beforeExec.sp = s.sp := rfl
@[simp] theorem State.beforeExec_dt : s.beforeExec.dt = timerDown s.dt := rfl
@[simp] theorem State.beforeExec_st : s.beforeExec.st = timerDown s.st := rfl
@[simp] theorem State.beforeExec_mem : s.beforeExec.mem = s.mem := rfl
@[simp] theorem State.beforeExec_fb : s.beforeExec.fb = s.fb := rfl
@[simp] theorem State.beforeExec_keys : s.beforeExec.keys = s.nextInput.keys := rfl
@[simp] theorem State.beforeExec_fault : s.beforeExec.fault = s.fault := rfl
@[simp] theorem State.beforeExec_variant : s.beforeExec.variant = s.variant := rfl
@[simp] theorem State.beforeExec_vfOrder : s.beforeExec.vfOrder = s.vfOrder := rfl
@[simp] theorem State.beforeExec_rnd : s.beforeExec.rnd = s.nextInput.rnd := rfl
@[simp] theorem State.beforeExec_inputs : s.beforeExec.inputs = s.inputs.tail := rfl
@[simp] theorem State.beforeExec_tick : s.beforeExec.tick = if s.inputs.isEmpty then s.tick + 1 else s.tick := rfl
@[simp] theorem State.beforeExec_reg (r : Reg) : s.beforeExec.reg r = s.reg r := rfl
@[simp] theorem State.beforeExec_memRead (k : Nat) : s.beforeExec.memRead k = s.memRead k := rfl
@[simp] theorem State.beforeExec_stackEntry (k : Fin 16) : s.beforeExec.stackEntry k = s.stackEntry k := rfl
@[simp] theorem State.beforeExec_effAddr (k : Nat) : s.beforeExec.effAddr k = s.effAddr k := rfl
@[simp] theorem State.beforeExec_fetchWord : s.beforeExec.fetchWord = s.fetchWord := rfl

/-! `raiseFault` -/

@[simp] theorem State.raiseFault_v (kind : FaultKind) (w : Word) : (s.raiseFault kind w).v = s.v := rfl
@[simp] theorem State.raiseFault_pc (kind : FaultKind) (w : Word) : (s.raiseFault kind w).pc = s.pc := rfl
@[simp] theorem State.raiseFault_i (kind : FaultKind) (w : Word) : (s.raiseFault kind w).i = s.i := rfl
@[simp] theorem State.raiseFault_stack (kind : FaultKind) (w : Word) : (s.raiseFault kind w).stack = s.stack := rfl
@[simp] theorem State.raiseFault_sp (kind : FaultKind) (w : Word) : (s.raiseFault kind w).sp = s.sp := rfl
@[simp] theorem State.raiseFault_dt (kind : FaultKind) (w : Word) : (s.raiseFault kind w).dt = s.dt := rfl
@[simp] theorem State.raiseFault_st (kind : FaultKind) (w : Word) : (s.raiseFault kind w).st = s.st := rfl
@[simp] theorem State.raiseFault_mem (kind : FaultKind) (w : Word) : (s.raiseFault kind w).mem = s.mem := rfl
@[simp] theorem State.raiseFault_fb (kind : FaultKind) (w : Word) : (s.raiseFault kind w).fb = s.fb := rfl
@[simp] theorem State.raiseFault_keys (kind : FaultKind) (w : Word) : (s.raiseFault kind w).keys = s.keys := rfl
@[simp] theorem State.raiseFault_fault (kind : FaultKind) (w : Word) : (s.raiseFault kind w).fault = some { kind := kind, pc := s.pc, word := w } := rfl
@[simp] theorem State.raiseFault_variant (kind : FaultKind) (w : Word) : (s.raiseFault kind w).variant = s.variant := rfl
@[simp] theorem State.raiseFault_vfOrder (kind : FaultKind) (w : Word) : (s.raiseFault kind w).vfOrder = s.vfOrder := rfl
@[simp] theorem State.raiseFault_rnd (kind : FaultKind) (w : Word) : (s.raiseFault kind w).rnd = s.rnd := rfl
@[simp] theorem State.raiseFault_inputs (kind : FaultKind) (w : Word) : (s.raiseFault kind w).inputs = s.inputs := rfl
@[simp] theorem State.raiseFault_tick (kind : FaultKind) (w : Word) : (s.raiseFault kind w).tick = s.tick := rfl
@[simp] theorem State.raiseFault_reg (kind : FaultKind) (w : Word) (r : Reg) : (s.raiseFault kind w).reg r = s.reg r := rfl
@[simp] theorem State.raiseFault_memRead (kind : FaultKind) (w : Word) (k : Nat) : (s.raiseFault kind w).memRead k = s.memRead k := rfl
@[simp] theorem State.raiseFault_stackEntry (kind : FaultKind) (w : Word) (k : Fin 16) : (s.raiseFault kind w).stackEntry k = s.stackEntry k := rfl
@[simp] theorem State.raiseFault_effAddr (kind : FaultKind) (w : Word) (k : Nat) : (s.raiseFault kind w).effAddr k = s.effAddr k := rfl
@[simp] theorem State.raiseFault_keyPressed (kind : FaultKind) (w : Word) (k : Nat) : (s.raiseFault kind w).keyPressed k = s.keyPressed k := rfl
@[simp] theorem State.raiseFault_fetchWord (kind : FaultKind) (w : Word) : (s.raiseFault kind w).fetchWord = s.fetchWord := rfl

/-! `load` -/

@[simp] theorem State.load_v (bytes : List Byte) : (s.load bytes).v = s.v := rfl
@[simp] theorem State.load_pc (bytes : List Byte) : (s.load bytes).pc = s.pc := rfl
@[simp] theorem State.load_i (bytes : List Byte) : (s.load bytes).i = s.i := rfl
@[simp] theorem State.load_stack (bytes : List Byte) : (s.load bytes).stack = s.stack := rfl
@[simp] theorem State.load_sp (bytes : List Byte) : (s.load bytes).sp = s.sp := rfl
@[simp] theorem State.load_dt (bytes : List Byte) : (s.load bytes).dt = s.dt := rfl
@[simp] theorem State.load_st (bytes : List Byte) : (s.load bytes).st = s.st := rfl
@[simp] theorem State.load_mem (bytes : List Byte) : (s.load bytes).mem = Memory.writeUpTo 0xFFF s.mem (programStart s.variant).toNat bytes := rfl
@[simp] theorem State.load_fb (bytes : List Byte) : (s.load bytes).fb = s.fb := rfl
@[simp] theorem State.load_keys (bytes : List Byte) : (s.load bytes).keys = s.keys := rfl
@[simp] theorem State.load_fault (bytes : List Byte) : (s.load bytes).fault = s.fault := rfl
@[simp] theorem State.load_variant (bytes : List Byte) : (s.load bytes).variant = s.variant := rfl
@[simp] theorem State.load_vfOrder (bytes : List Byte) : (s.load bytes).vfOrder = s.vfOrder := rfl
@[simp] theorem State.load_rnd (bytes : List Byte) : (s.load bytes).rnd = s.rnd := rfl
@[simp] theorem State.load_inputs (bytes : List Byte) : (s.load bytes).inputs = s.inputs := rfl
@[simp] theorem State.load_tick (bytes : List Byte) : (s.load bytes).tick = s.tick := rfl
@[simp] theorem State.load_reg (bytes : List Byte) (r : Reg) : (s.load bytes).reg r = s.reg r := rfl
@[simp] theorem State.load_stackEntry (bytes : List Byte) (k : Fin 16) : (s.load bytes).stackEntry k = s.stackEntry k := rfl
@[simp] theorem State.load_effAddr (bytes : List Byte) (k : Nat) : (s.load bytes).effAddr k = s.effAddr k := rfl
@[simp] theorem State.load_keyPressed (bytes : List Byte) (k : Nat) : (s.load bytes).keyPressed k = s.keyPressed k := rfl

/-! `withInput` -/

@[simp] theorem State.withInput_v (keys : BitVec 16) (rnd : Byte) : (s.withInput keys rnd).v = s.v := rfl
@[simp] theorem State.withInput_pc (keys : BitVec 16) (rnd : Byte) : (s.withInput keys rnd).pc = s.pc := rfl
@[simp] theorem State.withInput_i (keys : BitVec 16) (rnd : Byte) : (s.withInput keys rnd).i = s.i := rfl
@[simp] theorem State.withInput_stack (keys : BitVec 16) (rnd : Byte) : (s.withInput keys rnd).stack = s.stack := rfl
@[simp] theorem State.withInput_sp (keys : BitVec 16) (rnd : Byte) : (s.withInput keys rnd).sp = s.sp := rfl
@[simp] theorem State.withInput_dt (keys : BitVec 16) (rnd : Byte) : (s.withInput keys rnd).dt = s.dt := rfl
@[simp] theorem State.withInput_st (keys : BitVec 16) (rnd : Byte) : (s.withInput keys rnd).st = s.st := rfl
@[simp] theorem State.withInput_mem (keys : BitVec 16) (rnd : Byte) : (s.withInput keys rnd).mem = s.mem := rfl
@[simp] theorem State.withInput_fb (keys : BitVec 16) (rnd : Byte) : (s.withInput keys rnd).fb = s.fb := rfl
@[simp] theorem State.withInput_keys (keys : BitVec 16) (rnd : Byte) : (s.withInput keys rnd).keys = s.keys := rfl
@[simp] theorem State.withInput_fault (keys : BitVec 16) (rnd : Byte) : (s.withInput keys rnd).fault = s.fault := rfl
@[simp] theorem State.withInput_variant (keys : BitVec 16) (rnd : Byte) : (s.withInput keys rnd).variant = s.variant := rfl
@[simp] theorem State.withInput_vfOrder (keys : BitVec 16) (rnd : Byte) : (s.withInput keys rnd).vfOrder = s.vfOrder := rfl
@[simp] theorem State.withInput_rnd (keys : BitVec 16) (rnd : Byte) : (s.withInput keys rnd).rnd = s.rnd := rfl
@[simp] theorem State.withInput_inputs (keys : BitVec 16) (rnd : Byte) : (s.withInput keys rnd).inputs = { keys := keys, rnd := rnd } :: s.inputs := rfl
@[simp] theorem State.withInput_tick (keys : BitVec 16) (rnd : Byte) : (s.withInput keys rnd).tick = s.tick := rfl
@[simp] theorem State.withInput_reg (keys : BitVec 16) (rnd : Byte) (r : Reg) : (s.withInput keys rnd).reg r = s.reg r := rfl
@[simp] theorem State.withInput_memRead (keys : BitVec 16) (rnd : Byte) (k : Nat) : (s.withInput keys rnd).memRead k = s.memRead k := rfl
@[simp] theorem State.withInput_stackEntry (keys : BitVec 16) (rnd : Byte) (k : Fin 16) : (s.withInput keys rnd).stackEntry k = s.stackEntry k := rfl
@[simp] theorem State.withInput_effAddr (keys : BitVec 16) (rnd : Byte) (k : Nat) : (s.withInput keys rnd).effAddr k = s.effAddr k := rfl
@[simp] theorem State.withInput_keyPressed (keys : BitVec 16) (rnd : Byte) (k : Nat) : (s.withInput keys rnd).keyPressed k = s.keyPressed k := rfl
@[simp] theorem State.withInput_fetchWord (keys : BitVec 16) (rnd : Byte) : (s.withInput keys rnd).fetchWord = s.fetchWord := rfl

end Sys2Proof.Machine
end

