-- ==== Sys2Proof/Laws/Ops.lean ====
section
/-! SUPPORT. What the shared operations do: register writes, memory accesses through the translator, the call stack, the
framebuffer, the order of flag and result, and the phases of a step. -/

namespace Sys2Proof.Machine

variable (s : State)

@[simp] theorem State.reg_setReg (x y : Reg) (b : Byte) :
    (s.setReg x b).reg y = if y = x then b else s.reg y := by
  simp only [State.reg, State.setReg, Vector.getElem_set, Fin.ext_iff, eq_comm]

theorem translate_lt (a : Nat) : translate a < memSize := Nat.mod_lt _ (by decide)

@[simp] theorem translate_translate (a : Nat) : translate (translate a) = translate a :=
  Nat.mod_mod a memSize

/-- A read after a write, through the translator: equal physical addresses read the written byte. -/
@[simp] theorem State.memRead_memWrite (a k : Nat) (x : Byte) :
    (s.memWrite a x).memRead k = if translate k = translate a then x else s.memRead k := by
  simp [State.memRead, State.memWrite]

theorem State.memWrite_wf (a : Nat) (x : Byte) (h : Memory.wf s.mem = true) :
    Memory.wf (s.memWrite a x).mem = true :=
  Memory.wf_write _ _ h (translate_lt a)

/-- A push below capacity writes entry SP and counts it. -/
theorem State.stackEntry_push (a : Word) (k : Fin 16) :
    (s.push a).stackEntry k = if k.val = s.sp.val then a else s.stackEntry k := by
  simp only [State.stackEntry, State.push, Vector.getElem_setIfInBounds, eq_comm]

theorem State.push_sp_val (a : Word) (h : s.sp.val < 16) : (s.push a).sp.val = s.sp.val + 1 := by
  simp only [State.push_sp, Fin.val_ofNat]; omega

theorem State.pop_sp_val (h : 0 < s.sp.val) : s.pop.sp.val = s.sp.val - 1 := by
  simp only [State.pop_sp, Fin.val_ofNat]; omega

/-- A pop after a push finds the pushed word and the old stack pointer. -/
theorem State.top_push (a : Word) (h : s.sp.val < 16) : (s.push a).top = a := by
  rw [State.top, State.stackEntry_push, if_pos]
  simp only [State.push_sp_val s a h, Fin.val_ofNat]; omega

@[simp] theorem Framebuffer.pixel_setPixel (fb : Framebuffer) (r r' : Fin 32) (c c' : Fin 64) (b : Bool) :
    (fb.setPixel r c b).pixel r' c' = if r' = r ∧ c' = c then b else fb.pixel r' c' := by
  simp only [Framebuffer.pixel, Framebuffer.setPixel, Vector.getElem_set, Fin.ext_iff]
  by_cases hr : r'.val = r.val
  · have : r' = r := Fin.ext hr
    subst this
    by_cases hc : c.val = c'.val <;> simp [hc, eq_comm]
  · have : ¬ r.val = r'.val := fun h => hr h.symm
    simp [hr, this]

@[simp] theorem Framebuffer.pixel_clear (r : Fin 32) (c : Fin 64) :
    Framebuffer.clear.pixel r c = false := by
  simp [Framebuffer.pixel, Framebuffer.clear]

/-- Two framebuffers with equal pixels are equal. -/
theorem Framebuffer.ext_pixel {f g : Framebuffer} (h : ∀ r c, f.pixel r c = g.pixel r c) : f = g := by
  refine Vector.ext fun i hi => Vector.ext fun j hj => ?_
  exact h ⟨i, hi⟩ ⟨j, hj⟩

/-- The flag first, then the result, computed from the registers as `VF_ORDER` says (42_alu.md R141). -/
theorem State.flagThenResult_eq_setReg_setReg (x y : Reg) (flag result : Byte → Byte → Byte) :
    s.flagThenResult x y flag result =
      (s.setReg vf (flag (s.reg x) (s.reg y))).setReg x
        (match s.vfOrder with
          | .sequential =>
            result (if x = vf then flag (s.reg x) (s.reg y) else s.reg x)
              (if y = vf then flag (s.reg x) (s.reg y) else s.reg y)
          | .snapshot => result (s.reg x) (s.reg y)) := by
  unfold State.flagThenResult
  cases s.vfOrder <;> simp

/-- The inputs a step samples when the host has lined them up. -/
@[simp] theorem State.nextInput_withInput (keys : BitVec 16) (rnd : Byte) :
    (s.withInput keys rnd).nextInput = { keys := keys, rnd := rnd } := rfl

end Sys2Proof.Machine
end

