-- ==== Sys2Proof/Laws/Blocks.lean ====
section
/-! SUPPORT. What the block loops of `Fx55` and `Fx65` and the key scan of `Fx0A` do (43_index_memory.md R175, R176;
45_keys_timers.md R213). -/

namespace Sys2Proof.Machine

variable (s : State)

/-- A block store writes memory only. -/
theorem State.storeRegs_eq (n : Nat) : s.storeRegs n = { s with mem := (s.storeRegs n).mem } := by
  induction n with
  | zero => rfl
  | succ n ih => rw [State.storeRegs, State.memWrite, ih]

/-- A block load writes the register file only. -/
theorem State.loadRegs_eq (n : Nat) : s.loadRegs n = { s with v := (s.loadRegs n).v } := by
  induction n with
  | zero => rfl
  | succ n ih => rw [State.loadRegs, State.setReg, ih]

@[simp] theorem State.storeRegs_v (n : Nat) : (s.storeRegs n).v = s.v := by rw [State.storeRegs_eq]
@[simp] theorem State.storeRegs_pc (n : Nat) : (s.storeRegs n).pc = s.pc := by rw [State.storeRegs_eq]
@[simp] theorem State.storeRegs_i (n : Nat) : (s.storeRegs n).i = s.i := by rw [State.storeRegs_eq]
@[simp] theorem State.storeRegs_stack (n : Nat) : (s.storeRegs n).stack = s.stack := by rw [State.storeRegs_eq]
@[simp] theorem State.storeRegs_sp (n : Nat) : (s.storeRegs n).sp = s.sp := by rw [State.storeRegs_eq]
@[simp] theorem State.storeRegs_dt (n : Nat) : (s.storeRegs n).dt = s.dt := by rw [State.storeRegs_eq]
@[simp] theorem State.storeRegs_st (n : Nat) : (s.storeRegs n).st = s.st := by rw [State.storeRegs_eq]
@[simp] theorem State.storeRegs_fb (n : Nat) : (s.storeRegs n).fb = s.fb := by rw [State.storeRegs_eq]
@[simp] theorem State.storeRegs_keys (n : Nat) : (s.storeRegs n).keys = s.keys := by rw [State.storeRegs_eq]
@[simp] theorem State.storeRegs_fault (n : Nat) : (s.storeRegs n).fault = s.fault := by rw [State.storeRegs_eq]
@[simp] theorem State.storeRegs_variant (n : Nat) : (s.storeRegs n).variant = s.variant := by rw [State.storeRegs_eq]
@[simp] theorem State.storeRegs_vfOrder (n : Nat) : (s.storeRegs n).vfOrder = s.vfOrder := by rw [State.storeRegs_eq]
@[simp] theorem State.storeRegs_rnd (n : Nat) : (s.storeRegs n).rnd = s.rnd := by rw [State.storeRegs_eq]
@[simp] theorem State.storeRegs_inputs (n : Nat) : (s.storeRegs n).inputs = s.inputs := by rw [State.storeRegs_eq]
@[simp] theorem State.storeRegs_tick (n : Nat) : (s.storeRegs n).tick = s.tick := by rw [State.storeRegs_eq]
@[simp] theorem State.storeRegs_reg (n : Nat) (r : Reg) : (s.storeRegs n).reg r = s.reg r := by
  rw [State.storeRegs_eq]; rfl
@[simp] theorem State.storeRegs_stackEntry (n : Nat) (k : Fin 16) : (s.storeRegs n).stackEntry k = s.stackEntry k := by
  rw [State.storeRegs_eq]; rfl
@[simp] theorem State.storeRegs_keyPressed (n : Nat) (k : Nat) : (s.storeRegs n).keyPressed k = s.keyPressed k := by
  rw [State.storeRegs_eq]; rfl

@[simp] theorem State.loadRegs_pc (n : Nat) : (s.loadRegs n).pc = s.pc := by rw [State.loadRegs_eq]
@[simp] theorem State.loadRegs_i (n : Nat) : (s.loadRegs n).i = s.i := by rw [State.loadRegs_eq]
@[simp] theorem State.loadRegs_stack (n : Nat) : (s.loadRegs n).stack = s.stack := by rw [State.loadRegs_eq]
@[simp] theorem State.loadRegs_sp (n : Nat) : (s.loadRegs n).sp = s.sp := by rw [State.loadRegs_eq]
@[simp] theorem State.loadRegs_dt (n : Nat) : (s.loadRegs n).dt = s.dt := by rw [State.loadRegs_eq]
@[simp] theorem State.loadRegs_st (n : Nat) : (s.loadRegs n).st = s.st := by rw [State.loadRegs_eq]
@[simp] theorem State.loadRegs_mem (n : Nat) : (s.loadRegs n).mem = s.mem := by rw [State.loadRegs_eq]
@[simp] theorem State.loadRegs_fb (n : Nat) : (s.loadRegs n).fb = s.fb := by rw [State.loadRegs_eq]
@[simp] theorem State.loadRegs_keys (n : Nat) : (s.loadRegs n).keys = s.keys := by rw [State.loadRegs_eq]
@[simp] theorem State.loadRegs_fault (n : Nat) : (s.loadRegs n).fault = s.fault := by rw [State.loadRegs_eq]
@[simp] theorem State.loadRegs_variant (n : Nat) : (s.loadRegs n).variant = s.variant := by rw [State.loadRegs_eq]
@[simp] theorem State.loadRegs_vfOrder (n : Nat) : (s.loadRegs n).vfOrder = s.vfOrder := by rw [State.loadRegs_eq]
@[simp] theorem State.loadRegs_rnd (n : Nat) : (s.loadRegs n).rnd = s.rnd := by rw [State.loadRegs_eq]
@[simp] theorem State.loadRegs_inputs (n : Nat) : (s.loadRegs n).inputs = s.inputs := by rw [State.loadRegs_eq]
@[simp] theorem State.loadRegs_tick (n : Nat) : (s.loadRegs n).tick = s.tick := by rw [State.loadRegs_eq]
@[simp] theorem State.loadRegs_memRead (n : Nat) (k : Nat) : (s.loadRegs n).memRead k = s.memRead k := by
  rw [State.loadRegs_eq]; rfl
@[simp] theorem State.loadRegs_stackEntry (n : Nat) (k : Fin 16) : (s.loadRegs n).stackEntry k = s.stackEntry k := by
  rw [State.loadRegs_eq]; rfl
@[simp] theorem State.loadRegs_keyPressed (n : Nat) (k : Nat) : (s.loadRegs n).keyPressed k = s.keyPressed k := by
  rw [State.loadRegs_eq]; rfl

/-- What a block store leaves at an address: register k at I + k for k below n, every other byte as before. -/
theorem State.memRead_storeRegs (n : Nat) (a : Nat) :
    ((∀ k < n, translate a ≠ translate (s.effAddr k)) → (s.storeRegs n).memRead a = s.memRead a) ∧
    ∀ k < n, n ≤ 16 → translate a = translate (s.effAddr k) →
      (s.storeRegs n).memRead a = s.reg (regOf k) := by
  induction n with
  | zero => exact ⟨fun _ => rfl, fun k hk => absurd hk (Nat.not_lt_zero k)⟩
  | succ n ih =>
    rw [State.storeRegs, State.memRead_memWrite]
    refine ⟨fun h => ?_, fun k hk hn ha => ?_⟩
    · rw [if_neg (h n (by omega))]
      exact ih.1 fun k hk => h k (by omega)
    · by_cases hkn : k = n
      · subst hkn; rw [if_pos ha]
      · rw [if_neg]
        · exact ih.2 k (by omega) (by omega) ha
        · rw [ha]
          simp only [translate, State.effAddr, memSize]
          omega

/-- A block store keeps the canonical form of memory. -/
theorem State.storeRegs_wf (n : Nat) (h : Memory.wf s.mem = true) : Memory.wf (s.storeRegs n).mem = true := by
  induction n with
  | zero => exact h
  | succ n ih => exact State.memWrite_wf _ _ _ ih

/-- What a block load leaves in a register: the byte at I + k in register k for k below n, every other as before. -/
theorem State.reg_loadRegs (n : Nat) (hn : n ≤ 16) (r : Reg) :
    (s.loadRegs n).reg r = if r.val < n then s.memRead (s.effAddr r.val) else s.reg r := by
  induction n with
  | zero => rfl
  | succ n ih =>
    rw [State.loadRegs, State.reg_setReg, ih (by omega)]
    have hval : (regOf n).val = n := by simp only [regOf, Fin.val_ofNat]; omega
    by_cases hr : r = regOf n
    · subst hr; simp [hval]
    · have : r.val ≠ n := fun h => hr (Fin.ext (h.trans hval.symm))
      by_cases hlt : r.val < n
      · simp [hr, hlt, Nat.lt_succ_of_lt hlt]
      · have : ¬ r.val < n + 1 := by omega
        simp [hr, hlt, this]

/-- The key scan answers the lowest pressed key from k on, or none if none of the n keys is pressed. -/
theorem State.firstKeyFrom_spec (n k : Nat) :
    match s.firstKeyFrom n k with
    | some j => k ≤ j ∧ j < k + n ∧ s.keyPressed j = true ∧ ∀ m, k ≤ m → m < j → s.keyPressed m = false
    | none => ∀ m, k ≤ m → m < k + n → s.keyPressed m = false := by
  induction n generalizing k with
  | zero => intro m h1 h2; omega
  | succ n ih =>
    rw [State.firstKeyFrom]
    by_cases hk : s.keyPressed k = true
    · simp only [hk, if_true]
      exact ⟨le_refl k, by omega, trivial, fun m h1 h2 => by omega⟩
    · have hkf : s.keyPressed k = false := by simpa using hk
      rw [if_neg hk]
      have ih := ih (k + 1)
      split at ih
      next j hj =>
        refine ⟨by omega, by omega, ih.2.2.1, fun m h1 h2 => ?_⟩
        by_cases hm : m = k
        · rw [hm]; exact hkf
        · exact ih.2.2.2 m (by omega) h2
      next hj =>
        intro m h1 h2
        by_cases hm : m = k
        · rw [hm]; exact hkf
        · exact ih m (by omega) (by omega)

/-- The wait for a key changes at most one register and PC. -/
theorem State.waitKey_eq (x : Reg) :
    s.waitKey x = { s with v := (s.waitKey x).v, pc := (s.waitKey x).pc } := by
  unfold State.waitKey
  split <;> rfl

end Sys2Proof.Machine
end

