-- ==== Sys2Proof/Laws/Decode.lean ====
section
/-! SUPPORT. The fields of an encoded word, format by format (30_encoding.md R81, R82), and the bytes of a word. -/

namespace Sys2Proof

theorem field_ofNat (n hi lo : Nat) :
    field (BitVec.ofNat 16 n) hi lo = n % 65536 / 2 ^ lo % 2 ^ (hi - lo + 1) := by
  simp [field, BitVec.toNat_ofNat]

/-- Format A: the family and the address field. -/
theorem fields_encodeA (op : Nat) (h : op < 16) (nnn : Addr12) :
    field (encodeA op nnn) 15 12 = op ∧ fieldNnn (encodeA op nnn) = nnn := by
  have hn := nnn.isLt
  refine ⟨?_, BitVec.eq_of_toNat_eq ?_⟩ <;>
    simp only [fieldNnn, encodeA, field_ofNat, BitVec.toNat_ofNat] <;> omega

/-- Formats XK and X: the family, the register and the byte. -/
theorem fields_encodeXK (op : Nat) (h : op < 16) (x : Reg) (kk : Byte) :
    field (encodeXK op x kk) 15 12 = op ∧ fieldX (encodeXK op x kk) = x ∧
    fieldKk (encodeXK op x kk) = kk ∧ field (encodeXK op x kk) 7 0 = kk.toNat := by
  have hk := kk.isLt
  have hx := x.isLt
  refine ⟨?_, Fin.ext ?_, BitVec.eq_of_toNat_eq ?_, ?_⟩ <;>
    simp only [fieldX, fieldKk, encodeXK, field_ofNat, BitVec.toNat_ofNat, Fin.val_ofNat] <;> omega

/-- Formats XY and XYN: the family, both registers and the low nibble. -/
theorem fields_encodeXY (op : Nat) (h : op < 16) (x y : Reg) (f : Fin 16) :
    field (encodeXY op x y f) 15 12 = op ∧ fieldX (encodeXY op x y f) = x ∧
    fieldY (encodeXY op x y f) = y ∧ fieldN (encodeXY op x y f) = f ∧
    field (encodeXY op x y f) 3 0 = f.val := by
  have hf := f.isLt
  have hx := x.isLt
  have hy := y.isLt
  refine ⟨?_, Fin.ext ?_, Fin.ext ?_, Fin.ext ?_, ?_⟩ <;>
    simp only [fieldX, fieldY, fieldN, encodeXY, field_ofNat, Fin.val_ofNat] <;> omega

/-- A word is the word of its two bytes. -/
@[simp] theorem wordOfBytes_hiByte_loByte (w : Word) : wordOfBytes (hiByte w) (loByte w) = w := by
  have hw := w.isLt
  apply BitVec.eq_of_toNat_eq
  simp only [wordOfBytes, hiByte, loByte, BitVec.toNat_ofNat]
  omega

theorem wordOfBytes_toNat (hi lo : Byte) : (wordOfBytes hi lo).toNat = hi.toNat * 256 + lo.toNat := by
  have h1 := hi.isLt
  have h2 := lo.isLt
  simp only [wordOfBytes, BitVec.toNat_ofNat]
  omega

/-- Decoding bytes is decoding their word. -/
theorem decode_two (hi lo : Byte) (rest : List Byte) (i : Instr) :
    decode (hi :: lo :: rest) = .ok (i, rest) ↔ decodeWord (wordOfBytes hi lo) = .ok i := by
  simp only [decode]
  split
  next j hj => simp [hj]
  next e he => simp [he]

/-- The decoder once the family is known. -/
theorem decodeWord_of_family {w : Word} (op : Nat) (h : field w 15 12 = op) :
    decodeWord w = match (generalizing := false) op with
      | 0x0 => .ok (decodeFamily0 w)
      | 0x1 => .ok (.jp (fieldNnn w))
      | 0x2 => .ok (.call (fieldNnn w))
      | 0x3 => .ok (.seImm (fieldX w) (fieldKk w))
      | 0x4 => .ok (.sneImm (fieldX w) (fieldKk w))
      | 0x5 => .ok (.seReg (fieldX w) (fieldY w))
      | 0x6 => .ok (.ldImm (fieldX w) (fieldKk w))
      | 0x7 => .ok (.addImm (fieldX w) (fieldKk w))
      | 0x8 => decodeFamily8 w
      | 0x9 => .ok (.sneReg (fieldX w) (fieldY w))
      | 0xA => .ok (.ldI (fieldNnn w))
      | 0xB => .ok (.jpV0 (fieldNnn w))
      | 0xC => .ok (.rnd (fieldX w) (fieldKk w))
      | 0xD => .ok (.drw (fieldX w) (fieldY w) (fieldN w))
      | 0xE => decodeFamilyE w
      | _ => decodeFamilyF w := by
  subst h; rfl

/-- Family E once the low byte is known. -/
theorem decodeFamilyE_of_byte {w : Word} (k : Nat) (h : field w 7 0 = k) :
    decodeFamilyE w = match (generalizing := false) k with
      | 0x9E => .ok (.skp (fieldX w))
      | 0xA1 => .ok (.sknp (fieldX w))
      | _ => .error .familyE := by
  subst h; rfl

/-- Family F once the low byte is known. -/
theorem decodeFamilyF_of_byte {w : Word} (k : Nat) (h : field w 7 0 = k) :
    decodeFamilyF w = match (generalizing := false) k with
      | 0x07 => .ok (.ldVxDt (fieldX w))
      | 0x0A => .ok (.ldK (fieldX w))
      | 0x15 => .ok (.ldDtVx (fieldX w))
      | 0x18 => .ok (.ldStVx (fieldX w))
      | 0x1E => .ok (.addI (fieldX w))
      | 0x29 => .ok (.ldF (fieldX w))
      | 0x33 => .ok (.ldB (fieldX w))
      | 0x55 => .ok (.ldMemStore (fieldX w))
      | 0x65 => .ok (.ldMemLoad (fieldX w))
      | _ => .error .familyF := by
  subst h; rfl

end Sys2Proof
end

