-- ==== Sys2Proof/Laws/Display.lean ====
section
/-! SUPPORT. What a sprite draw does to each pixel and when it collides (44_display.md R191): the engine's pixel-by-pixel
loop against the closed description `State.spriteCovers`. -/

namespace Sys2Proof.Machine

/-- One of the first n columns of a sprite row has a 1-bit over column c. -/
def rowHits (cx bits : Byte) (n : Nat) (c : Fin 64) : Prop :=
  ∃ j < n, spriteCol cx j = c ∧ spriteBit bits j = true

/-- One of the first n rows of a sprite has a 1-bit over pixel (r, c). -/
def spriteHits (cx cy : Byte) (rows : Nat → Byte) (n : Nat) (r : Fin 32) (c : Fin 64) : Prop :=
  ∃ i < n, spriteRow cy i = r ∧ rowHits cx (rows i) 8 c

theorem spriteCol_injOn {cx : Byte} {j k : Nat} (hj : j < 8) (hk : k < 8)
    (h : spriteCol cx j = spriteCol cx k) : j = k := by
  have := congrArg Fin.val h
  simp only [spriteCol, Fin.val_ofNat] at this
  omega

theorem spriteRow_injOn {cy : Byte} {i k : Nat} (hi : i < 16) (hk : k < 16)
    (h : spriteRow cy i = spriteRow cy k) : i = k := by
  have := congrArg Fin.val h
  simp only [spriteRow, Fin.val_ofNat] at this
  omega

theorem rowHits_succ {cx bits : Byte} {n : Nat} {c : Fin 64} :
    rowHits cx bits (n + 1) c ↔ rowHits cx bits n c ∨ spriteCol cx n = c ∧ spriteBit bits n = true := by
  constructor
  · rintro ⟨j, hj, h⟩
    by_cases hjn : j = n
    · subst hjn; exact .inr h
    · exact .inl ⟨j, by omega, h⟩
  · rintro (⟨j, hj, h⟩ | h)
    · exact ⟨j, by omega, h⟩
    · exact ⟨n, by omega, h⟩

theorem spriteHits_succ {cx cy : Byte} {rows : Nat → Byte} {n : Nat} {r : Fin 32} {c : Fin 64} :
    spriteHits cx cy rows (n + 1) r c ↔
      spriteHits cx cy rows n r c ∨ spriteRow cy n = r ∧ rowHits cx (rows n) 8 c := by
  constructor
  · rintro ⟨i, hi, h⟩
    by_cases hin : i = n
    · subst hin; exact .inr h
    · exact .inl ⟨i, by omega, h⟩
  · rintro (⟨i, hi, h⟩ | h)
    · exact ⟨i, by omega, h⟩
    · exact ⟨n, by omega, h⟩

/-- The columns before column n do not touch column n's pixel. -/
theorem not_rowHits_self {cx bits : Byte} {n : Nat} (hn : n < 8) : ¬ rowHits cx bits n (spriteCol cx n) := by
  rintro ⟨j, hj, he, -⟩
  exact absurd (spriteCol_injOn (by omega) hn he) (by omega)

/-- The rows before row n do not touch row n's pixels. -/
theorem not_spriteHits_self {cx cy : Byte} {rows : Nat → Byte} {n : Nat} {c : Fin 64} (hn : n < 16) :
    ¬ spriteHits cx cy rows n (spriteRow cy n) c := by
  rintro ⟨i, hi, he, -⟩
  exact absurd (spriteRow_injOn (by omega) hn he) (by omega)

/-- The columns drawn so far flip exactly the pixels under their 1-bits. -/
theorem Canvas.drawCols_pixel (cv : Canvas) (r : Fin 32) (cx bits : Byte) (n : Nat) (hn : n ≤ 8)
    (r' : Fin 32) (c : Fin 64) :
    (r' = r ∧ rowHits cx bits n c → (cv.drawCols r cx bits n).fb.pixel r' c = !cv.fb.pixel r' c) ∧
    (¬ (r' = r ∧ rowHits cx bits n c) → (cv.drawCols r cx bits n).fb.pixel r' c = cv.fb.pixel r' c) := by
  induction n with
  | zero => exact ⟨fun h => by obtain ⟨-, j, hj, -⟩ := h; omega, fun _ => rfl⟩
  | succ n ih =>
    have ih := ih (by omega)
    simp only [Canvas.drawCols, Canvas.xorPixel, Framebuffer.pixel_setPixel, rowHits_succ]
    by_cases ht : r' = r ∧ c = spriteCol cx n
    · obtain ⟨rfl, rfl⟩ := ht
      have hno := not_rowHits_self (cx := cx) (bits := bits) (n := n) (by omega)
      have hold := ih.2 fun h => hno h.2
      cases hb : spriteBit bits n <;> simp [hold, hno]
    · have hiff : (r' = r ∧ (rowHits cx bits n c ∨ spriteCol cx n = c ∧ spriteBit bits n = true)) ↔
          (r' = r ∧ rowHits cx bits n c) :=
        and_congr_right fun hr =>
          ⟨fun h => h.elim id fun h => absurd ⟨hr, h.1.symm⟩ ht, .inl⟩
      rw [if_neg ht, hiff]
      exact ih

/-- The columns drawn so far have collided exactly if one of their 1-bits fell on a lit pixel. -/
theorem Canvas.drawCols_collision (cv : Canvas) (r : Fin 32) (cx bits : Byte) (n : Nat) (hn : n ≤ 8) :
    (cv.drawCols r cx bits n).collision = true ↔
      cv.collision = true ∨ ∃ c, rowHits cx bits n c ∧ cv.fb.pixel r c = true := by
  induction n with
  | zero =>
    exact ⟨.inl, fun h => h.elim id fun ⟨_, ⟨j, hj, _⟩, _⟩ => absurd hj (Nat.not_lt_zero j)⟩
  | succ n ih =>
    have hno := not_rowHits_self (cx := cx) (bits := bits) (n := n) (by omega)
    have hpix := (Canvas.drawCols_pixel cv r cx bits n (by omega) r (spriteCol cx n)).2 fun h => hno h.2
    simp only [Canvas.drawCols, Canvas.xorPixel, Bool.or_eq_true, Bool.and_eq_true, hpix, ih (by omega),
      rowHits_succ]
    constructor
    · rintro ((h | ⟨c, h1, h2⟩) | ⟨h1, h2⟩)
      · exact .inl h
      · exact .inr ⟨c, .inl h1, h2⟩
      · exact .inr ⟨_, .inr ⟨rfl, h2⟩, h1⟩
    · rintro (h | ⟨c, h1 | ⟨rfl, h1⟩, h2⟩)
      · exact .inl (.inl h)
      · exact .inl (.inr ⟨c, h1, h2⟩)
      · exact .inr ⟨h2, h1⟩

/-- The rows drawn so far flip exactly the pixels under their 1-bits. -/
theorem Canvas.drawRows_pixel (cv : Canvas) (cx cy : Byte) (rows : Nat → Byte) (n : Nat) (hn : n ≤ 16)
    (r : Fin 32) (c : Fin 64) :
    (spriteHits cx cy rows n r c → (cv.drawRows cx cy rows n).fb.pixel r c = !cv.fb.pixel r c) ∧
    (¬ spriteHits cx cy rows n r c → (cv.drawRows cx cy rows n).fb.pixel r c = cv.fb.pixel r c) := by
  induction n with
  | zero => exact ⟨fun h => by obtain ⟨i, hi, -⟩ := h; omega, fun _ => rfl⟩
  | succ n ih =>
    have ih := ih (by omega)
    have hcol := Canvas.drawCols_pixel (cv.drawRows cx cy rows n) (spriteRow cy n) cx (rows n) 8 (le_refl 8) r c
    rw [spriteHits_succ, Canvas.drawRows]
    by_cases hr : spriteRow cy n = r
    · subst hr
      have hno := not_spriteHits_self (cx := cx) (cy := cy) (rows := rows) (n := n) (c := c) (by omega)
      have hold := ih.2 hno
      rw [hold] at hcol
      exact ⟨fun h => hcol.1 ⟨rfl, (h.resolve_left hno).2⟩, fun h => hcol.2 fun h' => h (.inr ⟨rfl, h'.2⟩)⟩
    · rw [hcol.2 fun h => hr h.1.symm]
      exact ⟨fun h => ih.1 (h.resolve_right fun h' => hr h'.1), fun h => ih.2 fun h' => h (.inl h')⟩

/-- The rows drawn so far have collided exactly if one of their 1-bits fell on a lit pixel. -/
theorem Canvas.drawRows_collision (cv : Canvas) (cx cy : Byte) (rows : Nat → Byte) (n : Nat) (hn : n ≤ 16) :
    (cv.drawRows cx cy rows n).collision = true ↔
      cv.collision = true ∨ ∃ r c, spriteHits cx cy rows n r c ∧ cv.fb.pixel r c = true := by
  induction n with
  | zero =>
    exact ⟨.inl, fun h => h.elim id fun ⟨_, _, ⟨i, hi, _⟩, _⟩ => absurd hi (Nat.not_lt_zero i)⟩
  | succ n ih =>
    have hpix : ∀ c, (cv.drawRows cx cy rows n).fb.pixel (spriteRow cy n) c = cv.fb.pixel (spriteRow cy n) c :=
      fun c => (Canvas.drawRows_pixel cv cx cy rows n (by omega) _ c).2 (not_spriteHits_self (by omega))
    simp only [Canvas.drawRows, Canvas.drawCols_collision _ _ _ _ _ (le_refl 8), hpix, ih (by omega),
      spriteHits_succ]
    constructor
    · rintro ((h | ⟨r, c, h1, h2⟩) | ⟨c, h1, h2⟩)
      · exact .inl h
      · exact .inr ⟨r, c, .inl h1, h2⟩
      · exact .inr ⟨_, c, .inr ⟨rfl, h1⟩, h2⟩
    · rintro (h | ⟨r, c, h1 | ⟨rfl, h1⟩, h2⟩)
      · exact .inl (.inl h)
      · exact .inl (.inr ⟨r, c, h1, h2⟩)
      · exact .inr ⟨c, h1, h2⟩

/-- The engine's hits are the pixels the spec's formula covers. -/
theorem spriteHits_iff_covers (s : State) (x y : Reg) (n : Nat) (r : Fin 32) (c : Fin 64) :
    spriteHits (s.reg x) (s.reg y) (fun k => s.memRead (s.effAddr k)) n r c ↔ s.spriteCovers x y n r c := by
  constructor
  · rintro ⟨i, hi, rfl, j, hj, rfl, hb⟩
    exact ⟨i, j, hi, hj, rfl, rfl, hb⟩
  · rintro ⟨i, j, hi, hj, hr, hc, hb⟩
    exact ⟨i, hi, Fin.ext hr.symm, j, hj, Fin.ext hc.symm, hb⟩

end Sys2Proof.Machine
end

