-- ==== Sys2Proof/Laws/PerInstr.lean ====
section
/-! SUPPORT. A statement made once per instruction: its encoding has the fixed bits that spec/opcode_table.json gives its
row. -/

namespace Sys2Proof.Laws

/-- The fixed bits of an instruction's row of the opcode table: (hi, lo, value), the value at bits hi..lo. -/
def fixedBits : Instr → List (Nat × Nat × Nat)
  | .cls => [(15, 0, 0xe0)]
  | .ret => [(15, 0, 0xee)]
  | .sys _ => [(15, 12, 0x0)]
  | .jp _ => [(15, 12, 0x1)]
  | .call _ => [(15, 12, 0x2)]
  | .seImm _ _ => [(15, 12, 0x3)]
  | .sneImm _ _ => [(15, 12, 0x4)]
  | .seReg _ _ => [(15, 12, 0x5)]
  | .ldImm _ _ => [(15, 12, 0x6)]
  | .addImm _ _ => [(15, 12, 0x7)]
  | .ldReg _ _ => [(3, 0, 0x0), (15, 12, 0x8)]
  | .orReg _ _ => [(3, 0, 0x1), (15, 12, 0x8)]
  | .andReg _ _ => [(3, 0, 0x2), (15, 12, 0x8)]
  | .xorReg _ _ => [(3, 0, 0x3), (15, 12, 0x8)]
  | .addReg _ _ => [(3, 0, 0x4), (15, 12, 0x8)]
  | .sub _ _ => [(3, 0, 0x5), (15, 12, 0x8)]
  | .shr _ _ => [(3, 0, 0x6), (15, 12, 0x8)]
  | .subn _ _ => [(3, 0, 0x7), (15, 12, 0x8)]
  | .shl _ _ => [(3, 0, 0xe), (15, 12, 0x8)]
  | .sneReg _ _ => [(15, 12, 0x9)]
  | .ldI _ => [(15, 12, 0xa)]
  | .jpV0 _ => [(15, 12, 0xb)]
  | .rnd _ _ => [(15, 12, 0xc)]
  | .drw _ _ _ => [(15, 12, 0xd)]
  | .skp _ => [(7, 0, 0x9e), (15, 12, 0xe)]
  | .sknp _ => [(7, 0, 0xa1), (15, 12, 0xe)]
  | .ldVxDt _ => [(7, 0, 0x7), (15, 12, 0xf)]
  | .ldK _ => [(7, 0, 0xa), (15, 12, 0xf)]
  | .ldDtVx _ => [(7, 0, 0x15), (15, 12, 0xf)]
  | .ldStVx _ => [(7, 0, 0x18), (15, 12, 0xf)]
  | .addI _ => [(7, 0, 0x1e), (15, 12, 0xf)]
  | .ldF _ => [(7, 0, 0x29), (15, 12, 0xf)]
  | .ldB _ => [(7, 0, 0x33), (15, 12, 0xf)]
  | .ldMemStore _ => [(7, 0, 0x55), (15, 12, 0xf)]
  | .ldMemLoad _ => [(7, 0, 0x65), (15, 12, 0xf)]

/-- The encoding of the instruction has its row's fixed bits. -/
def EncodingRow.Statement (i : Instr) : Prop :=
  ∀ f ∈ fixedBits i, field (encode i) f.1 f.2.1 = f.2.2

theorem EncodingRow.cls : EncodingRow.Statement .cls := by
  simp [EncodingRow.Statement, fixedBits, encode, field]

theorem EncodingRow.ret : EncodingRow.Statement .ret := by
  simp [EncodingRow.Statement, fixedBits, encode, field]

theorem EncodingRow.sys (nnn : Addr12) : EncodingRow.Statement (.sys nnn) := by
  simp [EncodingRow.Statement, fixedBits, encode, fields_encodeA 0 (by decide) nnn]

theorem EncodingRow.jp (nnn : Addr12) : EncodingRow.Statement (.jp nnn) := by
  simp [EncodingRow.Statement, fixedBits, encode, fields_encodeA 1 (by decide) nnn]

theorem EncodingRow.call (nnn : Addr12) : EncodingRow.Statement (.call nnn) := by
  simp [EncodingRow.Statement, fixedBits, encode, fields_encodeA 2 (by decide) nnn]

theorem EncodingRow.seImm (x : Reg) (kk : Byte) : EncodingRow.Statement (.seImm x kk) := by
  simp [EncodingRow.Statement, fixedBits, encode, fields_encodeXK 3 (by decide) x kk]

theorem EncodingRow.sneImm (x : Reg) (kk : Byte) : EncodingRow.Statement (.sneImm x kk) := by
  simp [EncodingRow.Statement, fixedBits, encode, fields_encodeXK 4 (by decide) x kk]

theorem EncodingRow.seReg (x : Reg) (y : Reg) : EncodingRow.Statement (.seReg x y) := by
  simp [EncodingRow.Statement, fixedBits, encode, fields_encodeXY 5 (by decide) x y 0x0]

theorem EncodingRow.ldImm (x : Reg) (kk : Byte) : EncodingRow.Statement (.ldImm x kk) := by
  simp [EncodingRow.Statement, fixedBits, encode, fields_encodeXK 6 (by decide) x kk]

theorem EncodingRow.addImm (x : Reg) (kk : Byte) : EncodingRow.Statement (.addImm x kk) := by
  simp [EncodingRow.Statement, fixedBits, encode, fields_encodeXK 7 (by decide) x kk]

theorem EncodingRow.ldReg (x : Reg) (y : Reg) : EncodingRow.Statement (.ldReg x y) := by
  simp [EncodingRow.Statement, fixedBits, encode, fields_encodeXY 8 (by decide) x y 0x0]

theorem EncodingRow.orReg (x : Reg) (y : Reg) : EncodingRow.Statement (.orReg x y) := by
  simp [EncodingRow.Statement, fixedBits, encode, fields_encodeXY 8 (by decide) x y 0x1]

theorem EncodingRow.andReg (x : Reg) (y : Reg) : EncodingRow.Statement (.andReg x y) := by
  simp [EncodingRow.Statement, fixedBits, encode, fields_encodeXY 8 (by decide) x y 0x2]

theorem EncodingRow.xorReg (x : Reg) (y : Reg) : EncodingRow.Statement (.xorReg x y) := by
  simp [EncodingRow.Statement, fixedBits, encode, fields_encodeXY 8 (by decide) x y 0x3]

theorem EncodingRow.addReg (x : Reg) (y : Reg) : EncodingRow.Statement (.addReg x y) := by
  simp [EncodingRow.Statement, fixedBits, encode, fields_encodeXY 8 (by decide) x y 0x4]

theorem EncodingRow.sub (x : Reg) (y : Reg) : EncodingRow.Statement (.sub x y) := by
  simp [EncodingRow.Statement, fixedBits, encode, fields_encodeXY 8 (by decide) x y 0x5]

theorem EncodingRow.shr (x : Reg) (y : Reg) : EncodingRow.Statement (.shr x y) := by
  simp [EncodingRow.Statement, fixedBits, encode, fields_encodeXY 8 (by decide) x y 0x6]

theorem EncodingRow.subn (x : Reg) (y : Reg) : EncodingRow.Statement (.subn x y) := by
  simp [EncodingRow.Statement, fixedBits, encode, fields_encodeXY 8 (by decide) x y 0x7]

theorem EncodingRow.shl (x : Reg) (y : Reg) : EncodingRow.Statement (.shl x y) := by
  simp [EncodingRow.Statement, fixedBits, encode, fields_encodeXY 8 (by decide) x y 0xe]

theorem EncodingRow.sneReg (x : Reg) (y : Reg) : EncodingRow.Statement (.sneReg x y) := by
  simp [EncodingRow.Statement, fixedBits, encode, fields_encodeXY 9 (by decide) x y 0x0]

theorem EncodingRow.ldI (nnn : Addr12) : EncodingRow.Statement (.ldI nnn) := by
  simp [EncodingRow.Statement, fixedBits, encode, fields_encodeA 10 (by decide) nnn]

theorem EncodingRow.jpV0 (nnn : Addr12) : EncodingRow.Statement (.jpV0 nnn) := by
  simp [EncodingRow.Statement, fixedBits, encode, fields_encodeA 11 (by decide) nnn]

theorem EncodingRow.rnd (x : Reg) (kk : Byte) : EncodingRow.Statement (.rnd x kk) := by
  simp [EncodingRow.Statement, fixedBits, encode, fields_encodeXK 12 (by decide) x kk]

theorem EncodingRow.drw (x : Reg) (y : Reg) (n : Fin 16) : EncodingRow.Statement (.drw x y n) := by
  simp [EncodingRow.Statement, fixedBits, encode, fields_encodeXY 13 (by decide) x y n]

theorem EncodingRow.skp (x : Reg) : EncodingRow.Statement (.skp x) := by
  simp [EncodingRow.Statement, fixedBits, encode, fields_encodeXK 14 (by decide) x 0x9e#8]

theorem EncodingRow.sknp (x : Reg) : EncodingRow.Statement (.sknp x) := by
  simp [EncodingRow.Statement, fixedBits, encode, fields_encodeXK 14 (by decide) x 0xa1#8]

theorem EncodingRow.ldVxDt (x : Reg) : EncodingRow.Statement (.ldVxDt x) := by
  simp [EncodingRow.Statement, fixedBits, encode, fields_encodeXK 15 (by decide) x 0x7#8]

theorem EncodingRow.ldK (x : Reg) : EncodingRow.Statement (.ldK x) := by
  simp [EncodingRow.Statement, fixedBits, encode, fields_encodeXK 15 (by decide) x 0xa#8]

theorem EncodingRow.ldDtVx (x : Reg) : EncodingRow.Statement (.ldDtVx x) := by
  simp [EncodingRow.Statement, fixedBits, encode, fields_encodeXK 15 (by decide) x 0x15#8]

theorem EncodingRow.ldStVx (x : Reg) : EncodingRow.Statement (.ldStVx x) := by
  simp [EncodingRow.Statement, fixedBits, encode, fields_encodeXK 15 (by decide) x 0x18#8]

theorem EncodingRow.addI (x : Reg) : EncodingRow.Statement (.addI x) := by
  simp [EncodingRow.Statement, fixedBits, encode, fields_encodeXK 15 (by decide) x 0x1e#8]

theorem EncodingRow.ldF (x : Reg) : EncodingRow.Statement (.ldF x) := by
  simp [EncodingRow.Statement, fixedBits, encode, fields_encodeXK 15 (by decide) x 0x29#8]

theorem EncodingRow.ldB (x : Reg) : EncodingRow.Statement (.ldB x) := by
  simp [EncodingRow.Statement, fixedBits, encode, fields_encodeXK 15 (by decide) x 0x33#8]

theorem EncodingRow.ldMemStore (x : Reg) : EncodingRow.Statement (.ldMemStore x) := by
  simp [EncodingRow.Statement, fixedBits, encode, fields_encodeXK 15 (by decide) x 0x55#8]

theorem EncodingRow.ldMemLoad (x : Reg) : EncodingRow.Statement (.ldMemLoad x) := by
  simp [EncodingRow.Statement, fixedBits, encode, fields_encodeXK 15 (by decide) x 0x65#8]

end Sys2Proof.Laws
end

