-- ==== Sys2Proof/Laws/Step.lean ====
section
/-! SUPPORT. What one step can do, said once: the inversion of `step` outside a fault, the host's step, the fetch, and
the placing of the next instruction word. -/

namespace Sys2Proof.Machine

/-- Outside a fault a step either latches DecodeError on an undefined word or executes the decoded instruction. -/
theorem step_cases {s t : State} (h0 : s.fault = none) (h : step s = .next t) :
    (∃ e, decodeWord s.fetchWord = .error e ∧ t = s.beforeExec.raiseFault .decodeError s.fetchWord) ∨
    (∃ i, decodeWord s.fetchWord = .ok i ∧ exec i s.beforeExec = .next t) := by
  unfold step execWord at h
  rw [h0] at h
  dsimp only at h
  split at h
  next i hi => exact .inr ⟨i, hi, h⟩
  next e he => exact .inl ⟨e, he, (Host.Outcome.next.inj h).symm⟩

/-- In the halted state the host's step changes nothing (R43, R236). -/
theorem hostStep_of_fault {s : State} (h : s.fault ≠ none) (keys : BitVec 16) (rnd : Byte) :
    hostStep keys rnd s = .next s := by
  obtain ⟨r, hr⟩ := Option.ne_none_iff_exists'.mp h
  simp only [hostStep, hr]

/-- Outside a fault the host's step is one cycle with its inputs lined up (R43). -/
theorem hostStep_of_no_fault {s : State} (h : s.fault = none) (keys : BitVec 16) (rnd : Byte) :
    hostStep keys rnd s = step (s.withInput keys rnd) := by
  simp only [hostStep, h]

/-- The fetch sees PC modulo 4096 only (R101, R61). -/
theorem State.fetchWord_setPc_of_mod {s : State} {a : Word} (h : a.toNat % 4096 = s.pc.toNat % 4096) :
    (s.setPc a).fetchWord = s.fetchWord := by
  have h1 : (1 : Word).toNat = 1 := rfl
  have hs : (a + 1).toNat % 4096 = (s.pc + 1).toNat % 4096 := by
    rw [BitVec.toNat_add, BitVec.toNat_add, h1]; omega
  simp only [State.fetchWord, State.memRead, State.setPc_pc, State.setPc_mem, translate, memSize, h, hs]

/-- A timer's count, as a number: natural subtraction keeps zero at zero (40_cycle.md R103). -/
theorem timerDown_toNat (b : Byte) : (timerDown b).toNat = b.toNat - 1 := by
  unfold timerDown
  split
  next h => simp [h]
  next h => bv_omega

/-- The next fetch reads the placed word. -/
theorem State.fetchWord_placeWord (s : State) (w : Word) : (s.placeWord w).fetchWord = w := by
  have hne : translate s.pc.toNat ≠ translate (s.pc + 1).toNat := by
    have h1 : (1 : Word).toNat = 1 := rfl
    rw [translate, translate, memSize, BitVec.toNat_add, h1]
    omega
  unfold State.fetchWord State.memRead
  rw [show (s.placeWord w).pc = s.pc from rfl,
    show (s.placeWord w).mem = Memory.write (Memory.write s.mem (translate s.pc.toNat) (hiByte w))
      (translate (s.pc + 1).toNat) (loByte w) from rfl,
    Memory.read_write, Memory.read_write, Memory.read_write, if_neg hne, if_pos rfl, if_pos rfl,
    wordOfBytes_hiByte_loByte]

end Sys2Proof.Machine
end

