-- ==== Sys2Proof/Tests/Slice0.lean ====
section
/-! SUPPORT. The model's own tests. Every expected value is the spec's: the words from the patterns of 30_encoding.md, the
results from the vectors of 95_test_vectors.md (each test names its vector) or computed by hand from the cited rule. The
witnesses at the end meet the hypotheses of each statement that has any. -/

namespace Sys2Proof.Tests

open Sys2Proof Sys2Proof.Machine

/-! ## WellFormed (30_encoding.md R85) -/

theorem test_wellFormed_refuses_sys_0E0 : (Instr.sys 0x0E0).wellFormed = false := by decide
theorem test_wellFormed_refuses_sys_0EE : (Instr.sys 0x0EE).wellFormed = false := by decide
theorem test_wellFormed_accepts_sys_0EF : (Instr.sys 0x0EF).wellFormed = true := by decide

/-! ## Decoding: words written out bit by bit, nibble by nibble, from the patterns of 30_encoding.md R82 and R84 -/

theorem test_decode_family0 :
    decodeTableWord 16 0b0000000011100000 = some .cls ∧ decodeTableWord 16 0b0000000011101110 = some .ret ∧
    decodeTableWord 16 0b0000000111100000 = some (.sys 0x1E0) ∧
    decodeTableWord 16 0b0000111011101110 = some (.sys 0xEEE) ∧
    decodeTableWord 16 0b0000000000000000 = some (.sys 0x000) := by decide

theorem test_decode_jumps_and_call :
    decodeTableWord 16 0b0001101010111100 = some (.jp 0xABC) ∧
    decodeTableWord 16 0b0010101010111100 = some (.call 0xABC) ∧
    decodeTableWord 16 0b1011101010111100 = some (.jpV0 0xABC) := by decide

theorem test_decode_skips :
    decodeTableWord 16 0b0011001101000010 = some (.seImm 3 0x42) ∧
    decodeTableWord 16 0b0100001101000010 = some (.sneImm 3 0x42) ∧
    decodeTableWord 16 0b0101101010110000 = some (.seReg 0xA 0xB) ∧
    decodeTableWord 16 0b0101101010110111 = some (.seReg 0xA 0xB) ∧
    decodeTableWord 16 0b1001101010110000 = some (.sneReg 0xA 0xB) ∧
    decodeTableWord 16 0b1001101010111111 = some (.sneReg 0xA 0xB) := by decide

theorem test_decode_immediates :
    decodeTableWord 16 0b0110101010011100 = some (.ldImm 0xA 0x9C) ∧
    decodeTableWord 16 0b0111101010011100 = some (.addImm 0xA 0x9C) ∧
    decodeTableWord 16 0b1100101010011100 = some (.rnd 0xA 0x9C) := by decide

theorem test_decode_family8 :
    decodeTableWord 16 0b1000000111110000 = some (.ldReg 1 0xF) ∧
    decodeTableWord 16 0b1000000111110001 = some (.orReg 1 0xF) ∧
    decodeTableWord 16 0b1000000111110010 = some (.andReg 1 0xF) ∧
    decodeTableWord 16 0b1000000111110011 = some (.xorReg 1 0xF) ∧
    decodeTableWord 16 0b1000000111110100 = some (.addReg 1 0xF) ∧
    decodeTableWord 16 0b1000000111110101 = some (.sub 1 0xF) ∧
    decodeTableWord 16 0b1000000111110110 = some (.shr 1 0xF) ∧
    decodeTableWord 16 0b1000000111110111 = some (.subn 1 0xF) ∧
    decodeTableWord 16 0b1000000111111110 = some (.shl 1 0xF) := by decide

theorem test_decode_ldI_and_drw :
    decodeTableWord 16 0b1010001100000000 = some (.ldI 0x300) ∧
    decodeTableWord 16 0b1101000100100011 = some (.drw 1 2 3) := by decide

theorem test_decode_familyE :
    decodeTableWord 16 0b1110010110011110 = some (.skp 5) ∧
    decodeTableWord 16 0b1110010110100001 = some (.sknp 5) := by decide

theorem test_decode_familyF :
    decodeTableWord 16 0b1111101000000111 = some (.ldVxDt 0xA) ∧
    decodeTableWord 16 0b1111101000001010 = some (.ldK 0xA) ∧
    decodeTableWord 16 0b1111101000010101 = some (.ldDtVx 0xA) ∧
    decodeTableWord 16 0b1111101000011000 = some (.ldStVx 0xA) ∧
    decodeTableWord 16 0b1111101000011110 = some (.addI 0xA) ∧
    decodeTableWord 16 0b1111101000101001 = some (.ldF 0xA) ∧
    decodeTableWord 16 0b1111101000110011 = some (.ldB 0xA) ∧
    decodeTableWord 16 0b1111101001010101 = some (.ldMemStore 0xA) ∧
    decodeTableWord 16 0b1111101001100101 = some (.ldMemLoad 0xA) := by decide

/-- S6, A35 and R87. -/
theorem test_decode_rejects_by_name :
    decodeWord 0x800F = .error .familyEight ∧ decodeWord 0x8008 = .error .familyEight ∧
    decodeWord 0x800D = .error .familyEight ∧ decodeWord 0xE09F = .error .familyE ∧
    decodeWord 0xF000 = .error .familyF ∧ decodeWord 0xF0FF = .error .familyF ∧
    decode [0x60] = .error .truncated := by decide

/-! ## Single steps -/

/-- The next state of an answer; no test meets a refusal. -/
def after : Result → State
  | .next t => t
  | .fault f => nomatch f
  | .refused _ => .reset

/-- The reset state with keys 0 and random byte 0 lined up (the conventions of 95_test_vectors.md). -/
def base : State := State.reset.withInput 0 0

/-- One step of a word placed at PC. -/
def run (s : State) (w : Nat) : State := after (step (s.withFetchWord 16 w))

/-! ### Control flow -/

/-- F1: RET keeps the popped entry. -/
theorem test_ret : let t := run { base with sp := 1, stack := base.stack.set 0 0x0204 } 0x00EE
    t.pc = 0x0206 ∧ t.sp.val = 0 ∧ t.stackEntry 0 = 0x0204 := by decide

/-- F2. -/
theorem test_ret_underflow :
    (run base 0x00EE).fault = some { kind := .stackUnderflow, pc := 0x200, word := 0x00EE } := by decide

/-- F4. -/
theorem test_sys : let t := run { base with fb := base.fb.setPixel 5 5 true } 0x0123
    t.pc = 0x202 ∧ t.fb.pixel 5 5 = true := by decide

/-- F5. -/
theorem test_jp : (run base 0x1FFF).pc = 0x0FFF := by decide

/-- F6. -/
theorem test_call : let t := run { base with pc := 0x0300, sp := 3 } 0x2ABC
    t.pc = 0x0ABC ∧ t.sp.val = 4 ∧ t.stackEntry 3 = 0x0300 := by decide

/-- F7. -/
theorem test_call_overflow : let t := run { base with sp := 16 } 0x2400
    t.fault = some { kind := .stackOverflow, pc := 0x200, word := 0x2400 } ∧ t.sp.val = 16 ∧ t.pc = 0x200 := by decide

/-- F8. -/
theorem test_seImm : let s := base.setReg 3 0x42
    (run s 0x3342).pc = 0x204 ∧ (run s 0x3343).pc = 0x202 := by decide

/-- F9. -/
theorem test_sneImm : let s := base.setReg 3 0x42
    (run s 0x4342).pc = 0x202 ∧ (run s 0x4300).pc = 0x204 := by decide

/-- F10, F11. -/
theorem test_seReg : (run ((base.setReg 1 7).setReg 2 7) 0x5121).pc = 0x204 ∧
    (run ((base.setReg 1 7).setReg 2 8) 0x5120).pc = 0x202 := by decide

/-- F12. -/
theorem test_sneReg : let s := (base.setReg 1 7).setReg 2 8
    (run s 0x9120).pc = 0x204 ∧ (run s 0x9110).pc = 0x202 := by decide

/-- F14: the sum leaves the 12-bit range. -/
theorem test_jpV0 : (run (base.setReg 0 0xFF) 0xBFFF).pc = 0x10FE := by decide

/-- S2: a skip wraps PC modulo 2^16. -/
theorem test_skip_wraps_pc : (run { base with pc := 0xFFFE } 0x3000).pc = 0x0002 := by decide

/-- S1: a fetch over the end of memory; the placed word is the one the vector lists. -/
theorem test_fetch_wraps : let t := after (step ({ base with pc := 0x0FFF }.memWrite 0xFFF 0x60))
    t.reg 0 = 0xF0 ∧ t.pc = 0x1001 := by decide

/-! ### ALU -/

/-- A1. -/
theorem test_ldImm : let t := run base 0x6A9C
    t.reg 0xA = 0x9C ∧ t.pc = 0x202 := by decide

/-- W1. -/
theorem test_addImm : let t := run ((base.setReg 1 0xFA).setReg vf 0x77) 0x710A
    t.reg 1 = 0x04 ∧ t.reg vf = 0x77 := by decide

/-- A4. -/
theorem test_ldReg : (run (base.setReg 2 0x11) 0x8120).reg 1 = 0x11 := by decide

/-- A5. -/
theorem test_orReg : let t := run (((base.setReg 1 0x0F).setReg 2 0xF0).setReg vf 0x55) 0x8121
    t.reg 1 = 0xFF ∧ t.reg vf = 0x55 := by decide

/-- A6. -/
theorem test_andReg : (run ((base.setReg 1 0x3C).setReg 2 0x0F) 0x8122).reg 1 = 0x0C := by decide

/-- A7. -/
theorem test_xorReg : (run ((base.setReg 1 0x3C).setReg 2 0x0F) 0x8123).reg 1 = 0x33 := by decide

/-- W2 (a). -/
theorem test_addReg : let t := run ((base.setReg 1 0xC8).setReg 2 0x64) 0x8124
    t.reg 1 = 0x2C ∧ t.reg vf = 1 := by decide

/-- A13: VF as the destination holds the sum. -/
theorem test_addReg_into_vf : (run ((base.setReg vf 0xFF).setReg 1 0x02) 0x8F14).reg vf = 0x01 := by decide

/-- W3 (a), A15. -/
theorem test_sub : let t := run ((base.setReg 1 0x05).setReg 2 0x0A) 0x8125
    let u := run ((base.setReg 1 0x42).setReg 2 0x42) 0x8125
    t.reg 1 = 0xFB ∧ t.reg vf = 0 ∧ u.reg 1 = 0 ∧ u.reg vf = 0 := by decide

/-- A18 and A19, both readings. -/
theorem test_sub_with_vf : let s := (base.setReg vf 0x10).setReg 1 0x05
    let u := (base.setReg vf 0x05).setReg 0xA 0x10
    (run s 0x8F15).reg vf = 0xFC ∧ (run { s with vfOrder := .snapshot } 0x8F15).reg vf = 0x0B ∧
    (run u 0x8AF5).reg 0xA = 0x0F ∧ (run { u with vfOrder := .snapshot } 0x8AF5).reg 0xA = 0x0B := by decide

/-- A23. -/
theorem test_shr : let t := run ((base.setReg 1 0x04).setReg 3 0xFF) 0x8136
    t.reg 1 = 0x02 ∧ t.reg vf = 0 := by decide

/-- A24, both readings. -/
theorem test_shr_of_vf : let s := base.setReg vf 0x03
    (run s 0x8F16).reg vf = 0x00 ∧ (run { s with vfOrder := .snapshot } 0x8F16).reg vf = 0x01 := by decide

/-- A26. -/
theorem test_subn : let t := run ((base.setReg 1 0x0A).setReg 2 0x05) 0x8127
    t.reg 1 = 0xFB ∧ t.reg vf = 0 := by decide

/-- A28 and A29, both readings. -/
theorem test_subn_with_vf : let s := (base.setReg vf 0x05).setReg 1 0x10
    let u := (base.setReg vf 0x10).setReg 0xA 0x05
    (run s 0x8F17).reg vf = 0x0F ∧ (run { s with vfOrder := .snapshot } 0x8F17).reg vf = 0x0B ∧
    (run u 0x8AF7).reg 0xA = 0xFC ∧ (run { u with vfOrder := .snapshot } 0x8AF7).reg 0xA = 0x0B := by decide

/-- A30. -/
theorem test_shl : let t := run (base.setReg 1 0x81) 0x810E
    t.reg 1 = 0x02 ∧ t.reg vf = 1 := by decide

/-- A33, both readings. -/
theorem test_shl_of_vf : let s := base.setReg vf 0xC0
    (run s 0x8F1E).reg vf = 0x02 ∧ (run { s with vfOrder := .snapshot } 0x8F1E).reg vf = 0x80 := by decide

/-- A34. -/
theorem test_rnd : let s := State.reset.withInput 0 0xA7
    (run s 0xC10F).reg 1 = 0x07 ∧ (run s 0xC1FF).reg 1 = 0xA7 := by decide

/-! ### Address register and memory blocks -/

/-- M1. -/
theorem test_ldI : (run (base.setI 0x1234) 0xA300).i = 0x0300 := by decide

/-- M3 and M4. -/
theorem test_addI : (run ((base.setI 0x0FFF).setReg 2 0x02) 0xF21E).i = 0x1001 ∧
    (run ((base.setI 0xFFFF).setReg 2 0x01) 0xF21E).i = 0x0000 := by decide

/-- M6. -/
theorem test_ldF : (run (base.setReg 0 0xFF) 0xF029).i = 0x04FB := by decide

/-- M7. -/
theorem test_ldB : let t := run ((base.setReg 5 0x9C).setI 0x0300) 0xF533
    [t.memRead 0x300, t.memRead 0x301, t.memRead 0x302] = [1, 5, 6] := by decide

/-- M9: the store wraps into the font. -/
theorem test_ldB_wraps : let t := run ((base.setReg 5 0x7B).setI 0x0FFE) 0xF533
    [t.memRead 0xFFE, t.memRead 0xFFF, t.memRead 0x000] = [1, 2, 3] := by decide

/-- M11 and M12. -/
theorem test_ldMemStore : let t := run (((base.setReg 0 9).setReg 1 8).setI 0x0400) 0xF055
    let u := run (((base.setReg 0 0xAA).setReg 1 0xBB).setI 0xFFFF) 0xF155
    t.memRead 0x400 = 9 ∧ t.memRead 0x401 = 0 ∧ u.memRead 0xFFF = 0xAA ∧ u.memRead 0x000 = 0xBB := by decide

/-- M13; V3 is above the block. -/
theorem test_ldMemLoad : let s := ((base.memWrite 0x300 1).memWrite 0x301 5).memWrite 0x302 6
    let t := run ((s.setI 0x0300).setReg 3 9) 0xF265
    [t.reg 0, t.reg 1, t.reg 2, t.reg 3] = [1, 5, 6, 9] ∧ t.i = 0x0300 := by decide

/-- M14: I above the address space. -/
theorem test_ldMemLoad_wraps :
    (run ((base.memWrite 0xFFF 0x5A).setI 0x1FFF) 0xF065).reg 0 = 0x5A := by decide

/-! ### Display -/

/-- D1. -/
theorem test_cls : let t := run ({ base with fb := base.fb.setPixel 31 63 true }.setReg vf 7) 0x00E0
    t.fb.pixel 31 63 = false ∧ t.reg vf = 7 := by decide

/-- The state of D4: two sprite rows at column 60 and row 31. -/
def d4 : State := ((((base.memWrite 0x300 0xFF).memWrite 0x301 0x81).setI 0x300).setReg 0 0x3C).setReg 1 0x1F

/-- D4: the sprite wraps on both axes. -/
theorem test_drw : let t := run d4 0xD012
    (List.finRange 64).filter (t.fb.pixel 31 ·) = [0, 1, 2, 3, 60, 61, 62, 63] ∧
    (List.finRange 64).filter (t.fb.pixel 0 ·) = [3, 60] ∧ t.reg vf = 0 := by decide +kernel

/-- D3 and D7: a collision turns the pixel off; VF may be the coordinate. -/
theorem test_drw_collision : let s := (base.memWrite 0x300 0xF0).setI 0x300
    let t := run { s with fb := s.fb.setPixel 0 0 true } 0xD011
    let u := run (((s.memWrite 0x300 0x80).setReg vf 5).setReg 0 2) 0xDF01
    [t.fb.pixel 0 0, t.fb.pixel 0 1, t.fb.pixel 0 3, t.fb.pixel 0 4] = [false, true, true, false] ∧ t.reg vf = 1 ∧
    u.fb.pixel 2 5 = true ∧ u.reg vf = 0 := by decide +kernel

/-! ### Keys and timers -/

/-- K1, K4 and K2. -/
theorem test_skp : (run ((State.reset.withInput 0x0400 0).setReg 5 0x0A) 0xE59E).pc = 0x204 ∧
    (run ((State.reset.withInput 0x0008 0).setReg 5 0x13) 0xE59E).pc = 0x204 ∧
    (run (base.setReg 5 0x0A) 0xE59E).pc = 0x202 := by decide

/-- K3. -/
theorem test_sknp : (run (base.setReg 5 0x0A) 0xE5A1).pc = 0x204 ∧
    (run ((State.reset.withInput 0x0400 0).setReg 5 0x0A) 0xE5A1).pc = 0x202 := by decide

/-- K6: the lowest of two pressed keys. -/
theorem test_ldK : let t := run (State.reset.withInput 0x0480 0) 0xF20A
    t.reg 2 = 7 ∧ t.pc = 0x202 := by decide

/-- K5: no key; only the timers go on. -/
theorem test_ldK_waits : let t := run ({ base with dt := 3 }.setReg 2 0x77) 0xF20A
    t.pc = 0x200 ∧ t.reg 2 = 0x77 ∧ t.dt = 2 := by decide

/-- K8. -/
theorem test_ldVxDt : let t := run { base with dt := 3 } 0xF107
    t.reg 1 = 2 ∧ t.dt = 2 := by decide

/-- S9. -/
theorem test_ldDtVx : (run ({ base with dt := 9 }.setReg 2 0x20) 0xF215).dt = 0x20 := by decide

/-- K10. -/
theorem test_ldStVx : let t := run (base.setReg 1 2) 0xF118
    t.st = 2 ∧ t.soundActive = true ∧ t.dt = 0 := by decide

/-- S3. -/
theorem test_countdown : let t := run { base with dt := 4, st := 1 } 0x0000
    t.dt = 3 ∧ t.st = 0 ∧ t.pc = 0x202 := by decide

/-! ### Faults, reset and load -/

/-- The state of S4 after its step. -/
def s4 : State := run { base with dt := 4 } 0x8008

/-- S4. -/
theorem test_decodeError : s4.dt = 3 ∧ s4.pc = 0x200 ∧
    s4.fault = some { kind := .decodeError, pc := 0x200, word := 0x8008 } := by decide

/-- S5: the halted step takes no key sample. -/
theorem test_halted : let t := after (hostStep 0xFFFF 0 s4)
    t = s4 := by decide +kernel

/-- R43, R260: an input refused in the halted state is not seen by a step after the reset. -/
theorem test_halted_input_is_lost :
    let s := (after (hostStep 0xFFFF 7 s4)).hostReset .normal ⟨defaultFont.toArray, rfl⟩ .sequential
    (after (hostStep 0x0001 9 (s.withFetchWord 16 0xC1FF))).reg 1 = 9 ∧ s.inputs = [] := by decide +kernel

/-- L1. -/
theorem test_reset_memory :
    (List.range 5).map (State.reset.memRead ·) = [0xF0, 0x90, 0x90, 0x90, 0xF0] ∧
    (List.range 5).map (fun k => State.reset.memRead (0x04B + k)) = [0xF0, 0x80, 0xF0, 0x80, 0x80] ∧
    State.reset.memRead 0x050 = 0 := by decide

/-- L3: byte 3583 lands at 0xFFF and byte 3584 does not land at 0x000. -/
theorem test_load_truncates : let s := State.reset.load (List.replicate 3600 7)
    s.memRead 0xFFF = 7 ∧ s.memRead 0x000 = 0xF0 := by
  simp only [State.load, State.memRead, Memory.read_writeUpTo, List.getElem?_replicate]
  decide

/-- L5. -/
theorem test_reset_clears_fault : let s := s4.hostReset .normal ⟨defaultFont.toArray, rfl⟩ .sequential
    s.fault = none ∧ s.pc = 0x200 := by decide

/-! ## Witnesses: for each statement with hypotheses, states and operands that meet them all, at boundary values -/

/-- The state in which a word at PC executes: inputs sampled, timers counted down. -/
def ready (s : State) (w : Nat) : State := (s.withFetchWord 16 w).beforeExec

theorem witness_StepRunsDecodedInstruction :
    (base.withFetchWord 16 0x6A9C).fault = none ∧
    decode [(base.withFetchWord 16 0x6A9C).memRead 0x200, (base.withFetchWord 16 0x6A9C).memRead 0x201] =
      .ok (.ldImm 0xA 0x9C, []) := by decide

/-- Over the end of memory: PC = 0x0FFF. -/
theorem witness_StepRunsDecodedInstruction_at_the_end :
    let s := { base with pc := 0x0FFF }.withFetchWord 16 0x2ABC
    s.fault = none ∧ decode [s.memRead s.pc.toNat, s.memRead (s.pc + 1).toNat] = .ok (.call 0xABC, []) := by decide

/-- PC at the last byte of the address space and at the last byte of the second 4096. -/
theorem witness_FetchIsBigEndianThroughTheTranslator :
    ({ base with pc := 0x0FFF } : State).pc.toNat % 4096 = 0xFFF ∧
    ({ base with pc := 0x1FFF } : State).pc.toNat % 4096 = 0xFFF ∧
    ({ base with pc := 0x1FFF } : State).fetchWord = 0x00F0 := by decide

theorem witness_UndefinedWordLatchesDecodeError : let s := base.withFetchWord 16 0x8008
    s.fault = none ∧ decodeWord s.fetchWord = .error .familyEight := by decide

theorem witness_HaltedStepChangesNothing : s4.halted := by unfold State.halted; decide

/-- An undefined word; CALL with SP = 16 and 15; RET with SP = 0 and 1; another word. -/
theorem witness_StepFaultsExactlyForTheThreeCauses :
    let f := fun (s : State) (w : Nat) => (run s w).fault.map (·.kind)
    f base 0x8008 = some .decodeError ∧
    f { base with sp := 16 } 0x2400 = some .stackOverflow ∧ f { base with sp := 15 } 0x2400 = none ∧
    f base 0x00EE = some .stackUnderflow ∧ f { base with sp := 1 } 0x00EE = none ∧ f base 0x6A9C = none := by decide

theorem witness_FaultingStepKeepsEverythingElse :
    (base.withFetchWord 16 0x00EE).fault = none ∧ (run base 0x00EE).fault ≠ none := by decide

/-- `Fx15`, `Fx18` and a word that writes no timer, with DT = 255 and ST = 0. -/
theorem witness_TimersCountDownInEveryStep : let s := { base with dt := 255 }.setReg 0xF 9
    (run s 0xFF15).dt = 9 ∧ (run s 0xFF15).st = 0 ∧ (run s 0xFF18).dt = 254 ∧ (run s 0xFF18).st = 9 ∧
    (run s 0x0000).dt = 254 ∧ (run s 0x0000).st = 0 := by decide

/-- Outside a fault and in one. -/
theorem witness_HostStepSamplesItsInputs :
    base.fault = none ∧ (after (hostStep 0xFFFF 3 (base.withFetchWord 16 0xC1FF))).keys = 0xFFFF ∧
    (after (hostStep 0xFFFF 3 (base.withFetchWord 16 0xC1FF))).reg 1 = 3 ∧ s4.fault ≠ none := by decide

/-- `Annn`, `Fx1E` and `Fx29` each change I. -/
theorem witness_AddressRegisterChangesOnlyByItsWriters : let s := base.setReg 2 1
    (run s 0xA300).i ≠ s.i ∧ (run s 0xF21E).i ≠ s.i ∧ (run s 0xF229).i ≠ s.i := by decide

/-- `00E0` and `Dxyn` each change a pixel. -/
theorem witness_ScreenChangesOnlyByDisplayInstructions : let s := { base with fb := base.fb.setPixel 0 0 true }
    (run s 0x00E0).fb.pixel 0 0 ≠ s.fb.pixel 0 0 ∧ (run base 0xD011).fb.pixel 0 0 ≠ base.fb.pixel 0 0 := by
  decide +kernel

/-- `Fx33` at I + 2 modulo 4096, `Fx55` at I + 15. -/
theorem witness_MemoryChangesOnlyByStores :
    let s := (base.setReg 5 0x7B).setI 0x0FFE
    let u := (base.setReg vf 0xAA).setI 0x0400
    (run s 0xF533).memRead 0x000 ≠ (s.withFetchWord 16 0xF533).memRead 0x000 ∧
    (run u 0xFF55).memRead 0x40F ≠ (u.withFetchWord 16 0xFF55).memRead 0x40F := by decide

/-- `2nnn` moves SP and entry SP, `00EE` moves SP; the first and the last entry. -/
theorem witness_StackChangesOnlyByCallAndReturn :
    let s := { base with sp := 15 }
    (run s 0x2ABC).sp ≠ s.sp ∧ (run s 0x2ABC).stackEntry 15 ≠ s.stackEntry 15 ∧
    (run base 0x2ABC).stackEntry 0 ≠ base.stackEntry 0 ∧ (run { base with sp := 1 } 0x00EE).sp.val = 0 := by decide

theorem witness_VfChangesOnlyByItsWriters :
    writesVf (.addImm 0xE 1) = false ∧ exec (.addImm 0xE 1) base = .next (base.setReg 0xE 1).advance :=
  ⟨rfl, rfl⟩

theorem witness_ParametersNeverChange :
    step (base.withFetchWord 16 0x6A9C) = .next ((ready base 0x6A9C).setReg 0xA 0x9C).advance := rfl

/-- A subtraction without VF among its operands, and a shift with y = 15, which is not read. -/
theorem witness_VfOrderMattersOnlyForVfOperands :
    vfOrderSensitive (.sub 1 2) = false ∧ vfOrderSensitive (.shr 1 vf) = false ∧
    exec (.shr 1 vf) base = .next ((base.setReg vf 0).setReg 1 0).advance :=
  ⟨rfl, rfl, rfl⟩

theorem witness_RandomByteReadOnlyByRnd :
    readsRnd (.ldImm 1 2) = false ∧ exec (.ldImm 1 2) base = .next (base.setReg 1 2).advance := ⟨rfl, rfl⟩

theorem witness_KeysReadOnlyByKeyInstructions :
    readsKeys (.ldVxDt 1) = false ∧ exec (.ldVxDt 1) base = .next (base.setReg 1 0).advance := ⟨rfl, rfl⟩

/-- I = 0x0300 and j = 0xF300. -/
theorem witness_HighBitsOfINeverAffectAccess : let s := base.setI 0x0300
    accessesAtI (.ldMemLoad 0xF) = true ∧ (0xF300 : Word).toNat % 4096 = s.i.toNat % 4096 ∧
    exec (.ldMemLoad 0xF) s = .next (s.loadRegs 16).advance := ⟨rfl, by decide, rfl⟩

theorem witness_DecodeOfEncodeIsTheInstruction :
    (Instr.sys 0x0E1).wellFormed = true ∧ encode (.sys 0x0E1) = 0x00E1 ∧
    (Instr.drw 0xF 0xF 0xF).wellFormed = true ∧ encode (.drw 0xF 0xF 0xF) = 0xDFFF := by decide

/-- Family 5 with a low nibble, family 9 without, and another family. -/
theorem witness_EncodeOfDecodeIsTheWord :
    decodeWord 0x5ABF = .ok (.seReg 0xA 0xB) ∧ (encode (.seReg 0xA 0xB)).toNat = 0x5AB0 ∧
    decodeWord 0x9AB0 = .ok (.sneReg 0xA 0xB) ∧ decodeWord 0x8ABE = .ok (.shl 0xA 0xB) ∧
    encode (.shl 0xA 0xB) = 0x8ABE := by decide

/-- nnn at both ends of its range. -/
theorem witness_SysOnlyAdvances :
    (0x000 : Addr12) ≠ 0x0E0 ∧ (0x000 : Addr12) ≠ 0x0EE ∧ (0xFFF : Addr12) ≠ 0x0E0 ∧ (0xFFF : Addr12) ≠ 0x0EE := by
  decide

/-- The last free entry and the full stack. -/
theorem witness_CallPushesOrOverflows :
    ({ base with sp := 15 } : State).sp.val < 16 ∧ ({ base with sp := 16 } : State).sp.val = 16 := by decide

/-- One entry, all sixteen entries, none. -/
theorem witness_ReturnPopsOrUnderflows :
    ({ base with sp := 1 } : State).sp.val = (0 : Fin 16).val + 1 ∧
    ({ base with sp := 16 } : State).sp.val = (15 : Fin 16).val + 1 ∧ base.sp.val = 0 := by decide

/-- A CALL, then its RET at once, with one free entry. -/
theorem witness_ReturnResumesAfterItsCall : let s := { base with sp := 15 }
    s.sp.val < 16 ∧ exec (.call 0x300) s = .next ((s.push s.pc).setPc 0x300) ∧
    sameStack ((s.push s.pc).setPc 0x300) ((s.push s.pc).setPc 0x300) ∧
    exec .ret ((s.push s.pc).setPc 0x300) = .next (((s.push s.pc).setPc 0x300).pop.setPc 0x202) :=
  ⟨by decide, rfl, ⟨rfl, fun _ => rfl⟩, rfl⟩

/-- In the middle of memory, at its last byte, and at PC = 0xFFFF. -/
theorem witness_SelfJumpOnlyCountsTimers :
    let s := base.withFetchWord 16 0x1200
    let u := { base with pc := 0x0FFF }.withFetchWord 16 0x1FFF
    let w := { base with pc := 0xFFFF }.withFetchWord 16 0x1FFF
    s.fault = none ∧ s.atSelfJump ∧ u.fault = none ∧ u.atSelfJump ∧ w.fault = none ∧ w.atSelfJump := by
  unfold State.atSelfJump; decide

/-- A carry with the flag visible, and VF as the destination. -/
theorem witness_AddRegistersSetsCarry : let s := (base.setReg 1 0xFF).setReg 2 1
    (1 : Reg) ≠ vf ∧ (after (exec (.addReg 1 2) s)).reg vf = 1 ∧ (after (exec (.addReg vf 1) s)).reg vf = 0xFF := by
  decide

/-- Equal operands with the flag visible, and VF as the destination under `snapshot`. -/
theorem witness_SubtractionsSetStrictGreaterFlag : let s := (base.setReg 1 9).setReg 2 9
    (1 : Reg) ≠ vf ∧ (after (exec (.sub 1 2) s)).reg vf = 0 ∧ (after (exec (.subn 1 2) s)).reg vf = 0 ∧
    (after (exec (.sub vf 1) { s with vfOrder := .snapshot })).reg vf = 0xF7 := by decide

/-- The bit shifted out with the flag visible, and VF as the operand under `snapshot`. -/
theorem witness_ShiftsMoveOneBitOut : let s := (base.setReg 1 0x81).setReg vf 0x03
    (1 : Reg) ≠ vf ∧ (after (exec (.shr 1 2) s)).reg vf = 1 ∧ (after (exec (.shl 1 2) s)).reg vf = 1 ∧
    (after (exec (.shl vf 1) { s with vfOrder := .snapshot })).reg vf = 0x06 := by decide

/-- A store of all sixteen registers and their load. -/
theorem witness_BlockLoadUndoesBlockStore : let s := (base.setReg vf 7).setI 0x0FFF
    exec (.ldMemStore 0xF) s = .next (s.storeRegs 16).advance ∧ (s.storeRegs 16).advance.i = s.i ∧
    sameMem (s.storeRegs 16).advance (s.storeRegs 16).advance ∧
    exec (.ldMemLoad 0xF) (s.storeRegs 16).advance = .next ((s.storeRegs 16).advance.loadRegs 16).advance :=
  ⟨rfl, rfl, fun _ => rfl, rfl⟩

/-- The first and the last pair of a block of sixteen registers, the next instruction at 0x202 and at 0x000. -/
theorem witness_StoredBytesAreFetchedNext :
    let s := (base.setI 0x0202).withFetchWord 16 0xFF55
    let u := { (base.setI 0x0FF2) with pc := 0x0FFE }.withFetchWord 16 0xFF55
    s.fault = none ∧ decodeWord s.fetchWord = .ok (.ldMemStore 0xF) ∧
    (s.i.toNat + (0 : Reg).val) % 4096 = (s.pc.toNat + 2) % 4096 ∧
    u.fault = none ∧ decodeWord u.fetchWord = .ok (.ldMemStore 0xF) ∧ (14 : Reg).val < (15 : Reg).val ∧
    (u.i.toNat + (14 : Reg).val) % 4096 = (u.pc.toNat + 2) % 4096 := by decide

/-- A pixel under the sprite, one beside it, and both outcomes of the collision. -/
theorem witness_DrawFlipsCoveredPixelsAndReportsCollision :
    d4.spriteCovers 0 1 2 31 60 ∧ d4.spriteCovers 0 1 2 0 3 ∧ d4.fb.pixel 31 60 = false ∧
    ({ d4 with fb := d4.fb.setPixel 0 3 true } : State).fb.pixel 0 3 = true :=
  ⟨⟨0, 0, by decide⟩, ⟨1, 7, by decide⟩, by decide, by decide⟩

/-- Two draws in succession: the hypotheses of the two statements on a second draw. -/
theorem witness_DrawingTwiceRestoresTheScreen :
    ∃ t w, exec (.drw 0 1 2) d4 = .next t ∧ sameScreen t t ∧ t.i = d4.i ∧ sameMem d4 t ∧
      t.reg 0 = d4.reg 0 ∧ t.reg 1 = d4.reg 1 ∧ exec (.drw 0 1 2) t = .next w :=
  ⟨_, _, rfl, fun _ _ => rfl, rfl, fun _ => rfl, by decide, by decide, rfl⟩

theorem witness_SecondDrawCollidesIffFirstLitAPixel :
    d4.spriteCovers 0 1 2 31 60 ∧ d4.fb.pixel 31 60 = false ∧
    (after (exec (.drw 0 1 2) (after (exec (.drw 0 1 2) d4)))).reg vf = 1 :=
  ⟨⟨0, 0, by decide⟩, by decide, by decide +kernel⟩

/-- Key 0 alone, key 15 alone, no key. -/
theorem witness_KeyWaitTakesLowestPressedKey :
    let one := { base with keys := 0x0001 }
    let last := { base with keys := 0x8000 }
    one.keys.getLsbD 0 = true ∧ last.keys.getLsbD 15 = true ∧ (∀ j, j < 15 → last.keys.getLsbD j = false) ∧
    base.keys = 0 := by decide

theorem witness_DelayTimerIsReadAfterCountdown : let s := base.withFetchWord 16 0xFF07
    s.fault = none ∧ s.fetchWord = BitVec.ofNat 16 (0xF007 + 0x100 * (15 : Reg).val) := by decide

theorem witness_TimersAreSetAfterCountdown :
    let s := base.withFetchWord 16 0xFF15
    let u := base.withFetchWord 16 0xF018
    s.fault = none ∧ s.fetchWord = BitVec.ofNat 16 (0xF015 + 0x100 * (15 : Reg).val) ∧
    u.fault = none ∧ u.fetchWord = BitVec.ofNat 16 (0xF018 + 0x100 * (0 : Reg).val) := by decide

/-- The default font as 80 bytes, and the ends of the zeroed range. -/
theorem witness_ResetLeavesTheSpecValues : let font : Vector Byte 80 := ⟨defaultFont.toArray, rfl⟩
    let t := s4.hostReset .eti font .snapshot
    font.toList = defaultFont ∧ t.memRead 79 = 0x80 ∧ t.memRead 80 = 0 ∧ t.memRead 4095 = 0 ∧ t.pc = 0x600 := by
  decide +kernel

/-- Below the start, at the first byte, at the last loaded byte and after it, in both variants. -/
theorem witness_LoadWritesFromProgramStart :
    let s := State.reset.load [1, 2]
    let u := { State.reset with variant := .eti }.load [1, 2]
    [s.memRead 0x1FF, s.memRead 0x200, s.memRead 0x201, s.memRead 0x202] = [0, 1, 2, 0] ∧
    [u.memRead 0x5FF, u.memRead 0x600, u.memRead 0x601, u.memRead 0x602] = [0, 1, 2, 0] := by decide

/-- The last pixel; no fault and one of each kind. -/
theorem witness_OutputsShowTheState :
    (2047 : Fin 2048).val = (31 : Fin 32).val * 64 + (63 : Fin 64).val ∧
    [base, s4, run { base with sp := 16 } 0x2400, run base 0x00EE].map (·.faultKindOut) = [0, 1, 2, 3] := by decide

/-- A state with the invariant whose step latches a fault, and one in which a fault is latched. -/
theorem witness_EveryStepKeepsTheInvariant :
    ({ base with sp := 16 }.withFetchWord 16 0x2400).Inv ∧ s4.Inv := by
  refine ⟨⟨by decide, fun _ h => nomatch h⟩, by decide, fun r h => ?_⟩
  cases Option.some.inj h
  exact ⟨rfl, by decide, .inl ⟨rfl, .familyEight, by decide⟩⟩

end Sys2Proof.Tests
end

section
/-! Words of the opcode table (30_encoding.md R82, R85 to R87): the decoder on the word's two bytes is `decodeWord` on the
word, so a row of the table is settled by what its word decodes to. -/

namespace Sys2Proof

theorem decodeTableWord_eq_some {w : Nat} {i : Instr} :
    decodeTableWord 16 w = some i ↔ decodeWord (BitVec.ofNat 16 w) = .ok i := by
  have hw : tableWord 16 w = BitVec.ofNat 16 w := BitVec.eq_of_toNat_eq (by simp [tableWord])
  simp only [decodeTableWord, decode, wordOfBytes_hiByte_loByte, hw]
  cases decodeWord (BitVec.ofNat 16 w) <;> simp

/-- A refused word is refused for a reason. -/
theorem decodeTableWord_eq_none_of_error {w : Nat} {e : Reject}
    (h : decodeWord (BitVec.ofNat 16 w) = .error e) : decodeTableWord 16 w = none := by
  refine Option.eq_none_iff_forall_ne_some.2 fun i hi => ?_
  rw [decodeTableWord_eq_some, h] at hi
  cases hi

/-- Settles O23: eight words by the instruction `decodeWord` gives, three by the reason of their refusal (R87). -/
theorem writtenOutWordsDecode : Obligations.WrittenOutWordsDecode := by
  unfold Obligations.WrittenOutWordsDecode
  have h8008 : decodeWord 0x8008 = .error .familyEight := by decide
  have hE09F : decodeWord 0xE09F = .error .familyE := by decide
  have hF0FF : decodeWord 0xF0FF = .error .familyF := by decide
  simp only [decodeTableWord_eq_none_of_error h8008, decodeTableWord_eq_none_of_error hE09F,
    decodeTableWord_eq_none_of_error hF0FF, decodeTableWord_eq_some]
  decide

end Sys2Proof
end

section
/-! The cycle (40_cycle.md): which timers an instruction leaves alone, and the two bytes the fetch reads. -/

namespace Sys2Proof.Machine

/-! ## Timers (R103) -/

/-- `VF_ORDER` decides what the second write reads (42_alu.md R141), never what is written besides registers. -/
theorem sameTimers_flagThenResult (s : State) (x y : Reg) (flag result : Byte → Byte → Byte) :
    sameTimers s (s.flagThenResult x y flag result) := by
  rw [State.flagThenResult_eq_setReg_setReg]
  exact ⟨rfl, rfl⟩

/-- A waiting `Fx0A` and one that takes a key (45_keys_timers.md R213). -/
theorem sameTimers_waitKey (s : State) (x : Reg) : sameTimers s (s.waitKey x) := by
  rw [State.waitKey_eq]
  exact ⟨rfl, rfl⟩

/-- Only `Fx15` and `Fx18` write a timer (10_state.md R26, R27); a CALL or RET that faults writes none. -/
theorem exec_sameTimers {s t : State} {i : Instr} (hdt : ∀ x, i ≠ .ldDtVx x)
    (hst : ∀ x, i ≠ .ldStVx x) (h : exec i s = .next t) : sameTimers s t := by
  cases i
  case ldDtVx x => exact absurd rfl (hdt x)
  case ldStVx x => exact absurd rfl (hst x)
  case ret | call =>
    simp only [exec, execRet, execCall] at h
    split at h <;> cases h <;> exact ⟨rfl, rfl⟩
  case sub | shr | subn | shl => cases h; exact sameTimers_flagThenResult s _ _ _ _
  case ldK x => cases h; exact sameTimers_waitKey s x
  case ldMemStore x => cases h; exact ⟨s.storeRegs_dt _, s.storeRegs_st _⟩
  case ldMemLoad x => cases h; exact ⟨s.loadRegs_dt _, s.loadRegs_st _⟩
  all_goals cases h; exact ⟨rfl, rfl⟩

/-- Settles O8: after the countdown an undefined word raises its fault and keeps both timers; so does every instruction but
`Fx15`, which overwrites DT and keeps ST, and `Fx18`, which overwrites ST and keeps DT. -/
theorem timersCountDownInEveryStep : Obligations.TimersCountDownInEveryStep := by
  unfold Obligations.TimersCountDownInEveryStep
  intro s t h0 hstep
  obtain ⟨e, he, rfl⟩ | ⟨i, hi, hexec⟩ := step_cases h0 hstep
  · simp [he, timerDown_toNat]
  · cases i with
    | ldDtVx x => cases hexec; simp [hi, timerDown_toNat]
    | ldStVx x => cases hexec; simp [hi, timerDown_toNat]
    | _ =>
      obtain ⟨hdt, hst⟩ := exec_sameTimers (by simp) (by simp) hexec
      simp [hi, hdt, hst, timerDown_toNat]

/-! ## The fetch (R101) -/

/-- A read sees its address modulo 4096 only (20_memory.md R61). -/
theorem State.memRead_mod (s : State) (a : Nat) : s.memRead (a % 4096) = s.memRead a :=
  congrArg (Memory.read s.mem) (translate_translate a)

theorem State.fetchWord_div (s : State) : s.fetchWord.toNat / 256 = (s.memRead s.pc.toNat).toNat := by
  rw [State.fetchWord, wordOfBytes_toNat]
  omega

theorem State.fetchWord_mod (s : State) : s.fetchWord.toNat % 256 = (s.memRead (s.pc + 1).toNat).toNat := by
  rw [State.fetchWord, wordOfBytes_toNat]
  omega

/-- Settles O2: both reads see their address modulo 4096 only, and PC + 1 is 0 modulo 4096 where PC is 0xFFF. -/
theorem fetchIsBigEndianThroughTheTranslator : Obligations.FetchIsBigEndianThroughTheTranslator := by
  unfold Obligations.FetchIsBigEndianThroughTheTranslator
  intro s
  refine ⟨?_, ?_, fun hpc => ?_⟩
  · rw [State.memRead_mod, State.fetchWord_div]
  · rw [State.memRead_mod, State.fetchWord_mod]
  · have hwrap : (s.pc + 1).toNat % 4096 = 0x000 := by bv_omega
    rw [State.fetchWord_mod, ← State.memRead_mod, hwrap]

end Sys2Proof.Machine
end

section
/-! Jumps and immediate skips (41_control_flow.md R123, R125, R126, R129): their words decode to them, they write PC only, and
the fetch at the PC they leave. -/

namespace Sys2Proof

/-! ## Their words (30_encoding.md R82) -/

theorem decodeWord_encode_jp (nnn : Addr12) : decodeWord (encode (.jp nnn)) = .ok (.jp nnn) := by
  obtain ⟨hop, hnnn⟩ := fields_encodeA 0x1 (by decide) nnn
  simp only [encode, decodeWord_of_family 0x1 hop, hnnn]

theorem decodeWord_encode_jpV0 (nnn : Addr12) : decodeWord (encode (.jpV0 nnn)) = .ok (.jpV0 nnn) := by
  obtain ⟨hop, hnnn⟩ := fields_encodeA 0xB (by decide) nnn
  simp only [encode, decodeWord_of_family 0xB hop, hnnn]

theorem decodeWord_encode_seImm (x : Reg) (kk : Byte) :
    decodeWord (encode (.seImm x kk)) = .ok (.seImm x kk) := by
  obtain ⟨hop, hx, hkk, -⟩ := fields_encodeXK 0x3 (by decide) x kk
  simp only [encode, decodeWord_of_family 0x3 hop, hx, hkk]

theorem decodeWord_encode_sneImm (x : Reg) (kk : Byte) :
    decodeWord (encode (.sneImm x kk)) = .ok (.sneImm x kk) := by
  obtain ⟨hop, hx, hkk, -⟩ := fields_encodeXK 0x4 (by decide) x kk
  simp only [encode, decodeWord_of_family 0x4 hop, hx, hkk]

/-- Format XK with the register's place value first, as the statements spell their words. -/
theorem encodeXK_eq_ofNat (op : Nat) (x : Reg) (kk : Byte) :
    encodeXK op x kk = BitVec.ofNat 16 (op * 0x1000 + 0x100 * x.val + kk.toNat) := by
  rw [encodeXK, Nat.mul_comm x.val]

namespace Machine

/-! ## Writing PC only -/

theorem sameButPc_setPc (s : State) (a : Word) : sameButPc s (s.setPc a) := by
  simp [sameButPc, sameButRegsPc, sameRegsBut, sameMem, sameStack, sameTimers, sameScreen, sameControl]

theorem sameButPc_skipIf (s : State) (c : Bool) : sameButPc s (s.skipIf c) := sameButPc_setPc s _

/-- `skip_if` adds to PC (00_scope.md R13); `State.skipIf_pc` says which sum PC becomes. -/
theorem State.skipIf_pc_eq_add (s : State) (c : Bool) : (s.skipIf c).pc = s.pc + (if c then 4 else 2) := by
  rw [State.skipIf_pc, apply_ite (s.pc + ·)]

/-! ## The next PC and the fetch there -/

theorem zextAddr_toNat (nnn : Addr12) : (zextAddr nnn).toNat = nnn.toNat :=
  BitVec.toNat_setWidth_of_le (by decide)

theorem zextByte_toNat (b : Byte) : (zextByte b).toNat = b.toNat :=
  BitVec.toNat_setWidth_of_le (by decide)

/-- At most 0x0FFF + 0xFF = 0x10FE, so 16 bits hold the sum. -/
theorem zextAddr_add_zextByte_toNat (nnn : Addr12) (b : Byte) :
    (zextAddr nnn + zextByte b).toNat = nnn.toNat + b.toNat := by
  have hn := nnn.isLt
  have hb := b.isLt
  rw [BitVec.toNat_add, zextAddr_toNat, zextByte_toNat]
  omega

/-- The fetch in exact addresses: trunc_16(PC + 1) and PC + 1 agree modulo 4096 (40_cycle.md R101, 20_memory.md R61). -/
theorem State.fetchWord_eq (s : State) :
    s.fetchWord = wordOfBytes (s.memRead (s.pc.toNat % 4096)) (s.memRead ((s.pc.toNat + 1) % 4096)) := by
  have hlow : (s.pc.toNat + 1) % 4096 = (s.pc + 1).toNat % 4096 := by bv_omega
  rw [hlow, State.memRead_mod, State.memRead_mod, State.fetchWord]

/-! ## The statements -/

/-- Settles O25: JP writes the zero-extended nnn to PC and nothing else. -/
theorem jumpSetsPc : Obligations.JumpSetsPc := by
  unfold Obligations.JumpSetsPc
  intro nnn s
  exact ⟨decodeWord_encode_jp nnn, s.setPc (zextAddr nnn), rfl, zextAddr_toNat nnn, sameButPc_setPc s _⟩

/-- Settles O26: the 16-bit sum does not wrap, and the fetch reduces it modulo 4096. -/
theorem jumpV0SetsPcToExactSum : Obligations.JumpV0SetsPcToExactSum := by
  unfold Obligations.JumpV0SetsPcToExactSum
  intro nnn s
  have hsum := zextAddr_add_zextByte_toNat nnn (s.reg 0)
  refine ⟨decodeWord_encode_jpV0 nnn, s.setPc (zextAddr nnn + zextByte (s.reg 0)), rfl, hsum, ?_,
    sameButPc_setPc s _⟩
  rw [State.fetchWord_eq, State.setPc_pc, hsum, State.setPc_memRead, State.setPc_memRead]

/-- Settles O27: SE and SNE are one `skip_if`, on equality and on its negation. -/
theorem immediateSkips : Obligations.ImmediateSkips := by
  unfold Obligations.ImmediateSkips
  intro x kk s
  refine ⟨?_, ?_, ⟨s.skipIf (s.reg x == kk), rfl, ?_, sameButPc_skipIf s _⟩,
    ⟨s.skipIf (s.reg x != kk), rfl, ?_, sameButPc_skipIf s _⟩⟩
  · exact encodeXK_eq_ofNat 0x3 x kk ▸ decodeWord_encode_seImm x kk
  · exact encodeXK_eq_ofNat 0x4 x kk ▸ decodeWord_encode_sneImm x kk
  · simp only [State.skipIf_pc_eq_add, beq_iff_eq]
  · simp only [State.skipIf_pc_eq_add, bne_iff_ne, ne_eq, ite_not]

end Machine
end Sys2Proof
end

section
/-! Loads and ALU (42_alu.md R141 to R152): their words decode to them, and what one register write, or a flag and a result
write, then the advance leave. -/

namespace Sys2Proof

/-! ## Their words (30_encoding.md R82, R84) -/

theorem decodeWord_encode_ldImm (x : Reg) (kk : Byte) :
    decodeWord (encode (.ldImm x kk)) = .ok (.ldImm x kk) := by
  obtain ⟨hop, hx, hkk, -⟩ := fields_encodeXK 0x6 (by decide) x kk
  simp only [encode, decodeWord_of_family 0x6 hop, hx, hkk]

theorem decodeWord_encode_addImm (x : Reg) (kk : Byte) :
    decodeWord (encode (.addImm x kk)) = .ok (.addImm x kk) := by
  obtain ⟨hop, hx, hkk, -⟩ := fields_encodeXK 0x7 (by decide) x kk
  simp only [encode, decodeWord_of_family 0x7 hop, hx, hkk]

/-- Family 8 once the function nibble is known. -/
theorem decodeFamily8_of_nibble {w : Word} (k : Nat) (h : field w 3 0 = k) :
    decodeFamily8 w = match (generalizing := false) k with
      | 0x0 => .ok (.ldReg (fieldX w) (fieldY w))
      | 0x1 => .ok (.orReg (fieldX w) (fieldY w))
      | 0x2 => .ok (.andReg (fieldX w) (fieldY w))
      | 0x3 => .ok (.xorReg (fieldX w) (fieldY w))
      | 0x4 => .ok (.addReg (fieldX w) (fieldY w))
      | 0x5 => .ok (.sub (fieldX w) (fieldY w))
      | 0x6 => .ok (.shr (fieldX w) (fieldY w))
      | 0x7 => .ok (.subn (fieldX w) (fieldY w))
      | 0xE => .ok (.shl (fieldX w) (fieldY w))
      | _ => .error .familyEight := by
  subst h; rfl

/-- A word `8xyf`, where family 8 reads function f as the instruction `mk` of the two register fields. -/
theorem decodeWord_encodeXY_eight (mk : Reg → Reg → Instr) (f : Fin 16)
    (hmk : ∀ {w : Word}, field w 3 0 = f.val → decodeFamily8 w = .ok (mk (fieldX w) (fieldY w)))
    (x y : Reg) : decodeWord (encodeXY 0x8 x y f) = .ok (mk x y) := by
  obtain ⟨hop, hx, hy, -, hf⟩ := fields_encodeXY 0x8 (by decide) x y f
  simp only [decodeWord_of_family 0x8 hop, hmk hf, hx, hy]

/-- Format XY with the fixed digits first, as the statements spell their words. -/
theorem encodeXY_eq_ofNat (op : Nat) (x y : Reg) (f : Fin 16) :
    encodeXY op x y f = BitVec.ofNat 16 (op * 0x1000 + f.val + 0x100 * x.val + 0x10 * y.val) :=
  congrArg (BitVec.ofNat 16) (by omega)

/-- `decodeWord_encodeXY_eight` with the word spelled as the statements do. -/
theorem decodeWord_ofNat_eight (mk : Reg → Reg → Instr) (f : Fin 16)
    (hmk : ∀ {w : Word}, field w 3 0 = f.val → decodeFamily8 w = .ok (mk (fieldX w) (fieldY w)))
    (x y : Reg) :
    decodeWord (BitVec.ofNat 16 (0x8000 + f.val + 0x100 * x.val + 0x10 * y.val)) = .ok (mk x y) :=
  encodeXY_eq_ofNat 0x8 x y f ▸ decodeWord_encodeXY_eight mk f hmk x y

namespace Machine

section
variable (s : State)

/-! ## Writing registers and PC only (40_cycle.md R110) -/

theorem sameButRegsPc_withRegsPc (v : Vector Byte 16) (pc : Word) :
    sameButRegsPc s { s with v := v, pc := pc } :=
  (sameButPc_setPc s s.pc).2

/-- One register written, then the advance. -/
theorem State.setReg_advance_spec (x : Reg) (b : Byte) :
    (s.setReg x b).advance.reg x = b ∧ (s.setReg x b).advance.pc = s.pc + 2 ∧
      sameRegsBut [x] s (s.setReg x b).advance ∧ sameButRegsPc s (s.setReg x b).advance := by
  refine ⟨by simp, rfl, fun r hr => ?_, sameButRegsPc_withRegsPc s _ _⟩
  rw [List.mem_singleton] at hr
  simp [hr]

/-- The flag written to VF, the result to V[x] after it, then the advance: with x = 15 the result stays. -/
theorem State.setFlag_setReg_advance_spec (x : Reg) (flag b : Byte) :
    ((s.setReg vf flag).setReg x b).advance.reg x = b ∧
      (x ≠ vf → ((s.setReg vf flag).setReg x b).advance.reg vf = flag) ∧
      ((s.setReg vf flag).setReg x b).advance.pc = s.pc + 2 ∧
      sameRegsBut [x, vf] s ((s.setReg vf flag).setReg x b).advance ∧
      sameButRegsPc s ((s.setReg vf flag).setReg x b).advance := by
  refine ⟨by simp, fun hx => by simp [hx.symm], rfl, fun r hr => ?_, sameButRegsPc_withRegsPc s _ _⟩
  obtain ⟨hrx, hrvf⟩ : r ≠ x ∧ r ≠ vf := by simpa using hr
  simp [hrx, hrvf]

/-! ## The order of flag and result (R141) -/

/-- The byte the second statement reads from a register when the first wrote `flag` to VF; `State.secondRead` is its number. -/
def State.secondOperand (r : Reg) (flag : Byte) : Byte :=
  if s.vfOrder = .sequential ∧ r = vf then flag else s.reg r

theorem State.secondOperand_toNat (r : Reg) (flag : Byte) :
    (s.secondOperand r flag).toNat = s.secondRead r flag.toNat :=
  apply_ite BitVec.toNat _ _ _

theorem State.flagThenResult_eq_secondOperand (x y : Reg) (flag result : Byte → Byte → Byte) :
    s.flagThenResult x y flag result =
      (s.setReg vf (flag (s.reg x) (s.reg y))).setReg x
        (result (s.secondOperand x (flag (s.reg x) (s.reg y)))
          (s.secondOperand y (flag (s.reg x) (s.reg y)))) := by
  rw [State.flagThenResult_eq_setReg_setReg]
  cases h : s.vfOrder <;> simp [State.secondOperand, h]

/-- The flag and the result as numbers: `F` is the flag of the old operands, `R` the result as a function of what the second
statement reads. -/
theorem State.flagThenResult_advance_spec (x y : Reg) {flag result : Byte → Byte → Byte} {F : Nat}
    (R : Nat → Nat → Nat) (hflag : (flag (s.reg x) (s.reg y)).toNat = F)
    (hresult : ∀ a b, (result a b).toNat = R a.toNat b.toNat) :
    ((s.flagThenResult x y flag result).advance.reg x).toNat = R (s.secondRead x F) (s.secondRead y F) ∧
      (x ≠ vf → ((s.flagThenResult x y flag result).advance.reg vf).toNat = F) ∧
      (s.flagThenResult x y flag result).advance.pc = s.pc + 2 ∧
      sameRegsBut [x, vf] s (s.flagThenResult x y flag result).advance ∧
      sameButRegsPc s (s.flagThenResult x y flag result).advance := by
  subst hflag
  rw [State.flagThenResult_eq_secondOperand]
  obtain ⟨hx, hvf, hframe⟩ := s.setFlag_setReg_advance_spec x (flag (s.reg x) (s.reg y))
    (result (s.secondOperand x (flag (s.reg x) (s.reg y))) (s.secondOperand y (flag (s.reg x) (s.reg y))))
  refine ⟨?_, fun hne => by rw [hvf hne], hframe⟩
  rw [hx, hresult, State.secondOperand_toNat, State.secondOperand_toNat]

end

/-! ## Flags and results as numbers (00_scope.md R11) -/

theorem bool01_decide_toNat (p : Prop) [Decidable p] : (bool01 (decide p)).toNat = if p then 1 else 0 := by
  by_cases hp : p <;> simp [bool01, hp]

theorem carryFlag_toNat (a b : Byte) :
    (carryFlag a b).toNat = if a.toNat + b.toNat > 255 then 1 else 0 :=
  bool01_decide_toNat _

theorem greaterFlag_toNat (a b : Byte) : (greaterFlag a b).toNat = if a.toNat > b.toNat then 1 else 0 :=
  bool01_decide_toNat _

theorem lowBit_toNat (a : Byte) : (lowBit a).toNat = a.toNat % 2 := by
  rw [lowBit, BitVec.toNat_and]
  exact Nat.and_one_is_mod _

theorem highBit_toNat (a : Byte) : (highBit a).toNat = a.toNat / 128 := by
  rw [highBit, BitVec.toNat_ushiftRight, Nat.shiftRight_eq_div_pow]

/-- The difference modulo 256 without going below 0. -/
theorem byte_sub_toNat (a b : Byte) : (a - b).toNat = (a.toNat + 256 - b.toNat) % 256 := by
  have hb := b.isLt
  rw [BitVec.toNat_sub]
  omega

theorem byte_ushiftRight_one_toNat (a : Byte) : (a >>> 1).toNat = a.toNat / 2 := by
  rw [BitVec.toNat_ushiftRight, Nat.shiftRight_eq_div_pow, Nat.pow_one]

theorem byte_shiftLeft_one_toNat (a : Byte) : (a <<< 1).toNat = a.toNat * 2 % 256 := by
  rw [BitVec.toNat_shiftLeft, Nat.shiftLeft_eq, Nat.pow_one]

/-! ## The statements -/

/-- Settles O36: the sum of the old values is written after the carry, so with x = 15 it replaces the carry. -/
theorem addRegistersSetsCarry : Obligations.AddRegistersSetsCarry := by
  unfold Obligations.AddRegistersSetsCarry
  intro x y s
  obtain ⟨hx, hvf, hframe⟩ := s.setFlag_setReg_advance_spec x (carryFlag (s.reg x) (s.reg y)) (s.reg x + s.reg y)
  refine ⟨decodeWord_ofNat_eight .addReg 0x4 (decodeFamily8_of_nibble 0x4) x y, _, rfl, ?_, fun hne => ?_, hframe⟩
  · rw [hx, BitVec.toNat_add]
  · rw [hvf hne, carryFlag_toNat]

/-- Settles O37: SUBN is SUB with both the comparison and the difference the other way round. -/
theorem subtractionsSetStrictGreaterFlag : Obligations.SubtractionsSetStrictGreaterFlag := by
  unfold Obligations.SubtractionsSetStrictGreaterFlag
  intro x y s
  refine ⟨decodeWord_ofNat_eight .sub 0x5 (decodeFamily8_of_nibble 0x5) x y,
    decodeWord_ofNat_eight .subn 0x7 (decodeFamily8_of_nibble 0x7) x y, ⟨_, _, rfl, rfl, ?_⟩, ⟨_, _, rfl, rfl, ?_⟩⟩
  · exact s.flagThenResult_advance_spec x y (fun a b => (a + 256 - b) % 256) (greaterFlag_toNat _ _) byte_sub_toNat
  · exact s.flagThenResult_advance_spec x y (fun a b => (b + 256 - a) % 256) (greaterFlag_toNat _ _)
      fun a b => byte_sub_toNat b a

/-- Settles O38: both shifts have V[x] as their only operand. -/
theorem shiftsMoveOneBitOut : Obligations.ShiftsMoveOneBitOut := by
  unfold Obligations.ShiftsMoveOneBitOut
  intro x y s
  refine ⟨decodeWord_ofNat_eight .shr 0x6 (decodeFamily8_of_nibble 0x6) x y,
    decodeWord_ofNat_eight .shl 0xE (decodeFamily8_of_nibble 0xE) x y, ⟨_, _, rfl, rfl, ?_⟩, ⟨_, _, rfl, rfl, ?_⟩⟩
  · exact s.flagThenResult_advance_spec x x (fun a _ => a / 2) (lowBit_toNat _)
      fun a _ => byte_ushiftRight_one_toNat a
  · exact s.flagThenResult_advance_spec x x (fun a _ => a * 2 % 256) (highBit_toNat _)
      fun a _ => byte_shiftLeft_one_toNat a

/-- Settles O33: both loads are one register write, of kk and of the old V[y]. -/
theorem loadsSetTheRegister : Obligations.LoadsSetTheRegister := by
  unfold Obligations.LoadsSetTheRegister
  intro x y kk s
  refine ⟨?_, decodeWord_ofNat_eight .ldReg 0x0 (decodeFamily8_of_nibble 0x0) x y,
    ⟨_, rfl, s.setReg_advance_spec x kk⟩, ⟨_, rfl, s.setReg_advance_spec x (s.reg y)⟩⟩
  exact encodeXK_eq_ofNat 0x6 x kk ▸ decodeWord_encode_ldImm x kk

/-- Settles O34: the one register written gets the 8-bit sum. -/
theorem addImmediateWrapsWithoutFlag : Obligations.AddImmediateWrapsWithoutFlag := by
  unfold Obligations.AddImmediateWrapsWithoutFlag
  intro x kk s
  obtain ⟨hx, hframe⟩ := s.setReg_advance_spec x (s.reg x + kk)
  refine ⟨encodeXK_eq_ofNat 0x7 x kk ▸ decodeWord_encode_addImm x kk, _, rfl, ?_, hframe⟩
  rw [hx, BitVec.toNat_add]

/-- Settles O35: the one register written gets the bitwise combination of the old values. -/
theorem logicalOperationsBitByBit : Obligations.LogicalOperationsBitByBit := by
  unfold Obligations.LogicalOperationsBitByBit
  intro x y s
  obtain ⟨hor, horFrame⟩ := s.setReg_advance_spec x (s.reg x ||| s.reg y)
  obtain ⟨hand, handFrame⟩ := s.setReg_advance_spec x (s.reg x &&& s.reg y)
  obtain ⟨hxor, hxorFrame⟩ := s.setReg_advance_spec x (s.reg x ^^^ s.reg y)
  refine ⟨decodeWord_ofNat_eight .orReg 0x1 (decodeFamily8_of_nibble 0x1) x y,
    decodeWord_ofNat_eight .andReg 0x2 (decodeFamily8_of_nibble 0x2) x y,
    decodeWord_ofNat_eight .xorReg 0x3 (decodeFamily8_of_nibble 0x3) x y,
    ⟨_, rfl, fun k => ?_, horFrame⟩, ⟨_, rfl, fun k => ?_, handFrame⟩, ⟨_, rfl, fun k => ?_, hxorFrame⟩⟩
  · rw [hor, BitVec.getLsbD_or]
  · rw [hand, BitVec.getLsbD_and]
  · rw [hxor, BitVec.getLsbD_xor]

end Machine
end Sys2Proof
end

section
/-! Address register and memory blocks (43_index_memory.md R171 to R176): their words decode to them, what a write of I, a
store and a block load leave unchanged, and the bytes at I, I + 1 and onward. -/

namespace Sys2Proof

/-! ## Their words (30_encoding.md R82, R84) -/

theorem decodeWord_encode_ldI (nnn : Addr12) : decodeWord (encode (.ldI nnn)) = .ok (.ldI nnn) := by
  obtain ⟨hop, hnnn⟩ := fields_encodeA 0xA (by decide) nnn
  simp only [encode, decodeWord_of_family 0xA hop, hnnn]

/-- A word `Fxkk`, where family F reads function kk as the instruction `mk` of the register field. -/
theorem decodeWord_encodeXK_familyF (mk : Reg → Instr) (kk : Byte)
    (hmk : ∀ {w : Word}, field w 7 0 = kk.toNat → decodeFamilyF w = .ok (mk (fieldX w))) (x : Reg) :
    decodeWord (encodeXK 0xF x kk) = .ok (mk x) := by
  obtain ⟨hop, hx, -, hkk⟩ := fields_encodeXK 0xF (by decide) x kk
  simp only [decodeWord_of_family 0xF hop, hmk hkk, hx]

/-- Format X with the fixed digits first, as the statements spell their words. -/
theorem encodeXK_eq_ofNat_fixed_first (op : Nat) (x : Reg) (kk : Byte) :
    encodeXK op x kk = BitVec.ofNat 16 (op * 0x1000 + kk.toNat + 0x100 * x.val) :=
  congrArg (BitVec.ofNat 16) (by omega)

/-- `decodeWord_encodeXK_familyF` with the word spelled as the statements do. -/
theorem decodeWord_ofNat_familyF (mk : Reg → Instr) (kk : Byte)
    (hmk : ∀ {w : Word}, field w 7 0 = kk.toNat → decodeFamilyF w = .ok (mk (fieldX w))) (x : Reg) :
    decodeWord (BitVec.ofNat 16 (0xF000 + kk.toNat + 0x100 * x.val)) = .ok (mk x) :=
  encodeXK_eq_ofNat_fixed_first 0xF x kk ▸ decodeWord_encodeXK_familyF mk kk hmk x

namespace Machine

/-! ## Addresses, glyph addresses and digits as numbers (R170, R173, R174) -/

/-- `Fx29` multiplies the whole byte: at most 255 × 5 = 1275, so 16 bits hold the product. -/
theorem glyphAddr_toNat (b : Byte) : (glyphAddr b).toNat = b.toNat * 5 := by
  have hb := b.isLt
  rw [glyphAddr, BitVec.toNat_ofNat]
  omega

theorem hundredsDigit_toNat (b : Byte) : (hundredsDigit b).toNat = b.toNat / 100 := by
  have hb := b.isLt
  rw [hundredsDigit, BitVec.toNat_ofNat]
  omega

theorem tensDigit_toNat (b : Byte) : (tensDigit b).toNat = b.toNat / 10 % 10 := by
  rw [tensDigit, BitVec.toNat_ofNat]
  omega

theorem onesDigit_toNat (b : Byte) : (onesDigit b).toNat = b.toNat % 10 := by
  rw [onesDigit, BitVec.toNat_ofNat]
  omega

theorem regOf_val (k : Reg) : regOf k.val = k := Fin.ofNat_val_eq_self k

section
variable (s : State)

/-- Fewer than 4096 addresses from I onward do not meet, although they wrap. -/
theorem State.translate_effAddr_inj {j k : Nat} (hj : j < 4096) (hk : k < 4096) :
    translate (s.effAddr j) = translate (s.effAddr k) ↔ j = k := by
  simp only [translate, State.effAddr, memSize]
  omega

/-! ## Writing I and PC only -/

theorem sameButIPc_setI_advance (a : Word) : sameButIPc s (s.setI a).advance := by
  simp [sameButIPc, sameRegsBut, sameMem, sameStack, sameTimers, sameScreen, sameControl]

/-! ## Writing memory and PC only -/

/-- The frame of a store, from what it does to memory. -/
theorem sameButStoresPc_advance {stored : List Nat} {t : State} (hmemOnly : t = { s with mem := t.mem })
    (hmem : sameMemBut stored s t) : sameButStoresPc stored s t.advance := by
  obtain ⟨hregs, hi, -, hrest⟩ := sameButPc_setPc s t.advance.pc
  rw [hmemOnly] at hmem ⊢
  exact ⟨hregs, hi, hmem, hrest⟩

/-- The three writes of `Fx33`, whatever the bytes. -/
theorem sameMemBut_three_memWrites (a b c : Nat) (x y z : Byte) :
    sameMemBut [a, b, c] s (((s.memWrite a x).memWrite b y).memWrite c z) := by
  intro k hk
  obtain ⟨ha, hb, hc⟩ : translate k ≠ translate a ∧ translate k ≠ translate b ∧ translate k ≠ translate c := by
    simpa using hk
  simp [ha, hb, hc]

theorem State.memRead_storeRegs_effAddr {n : Nat} (hn : n ≤ 16) {k : Reg} (hk : k.val < n) :
    (s.storeRegs n).memRead (s.effAddr k.val) = s.reg k := by
  rw [(s.memRead_storeRegs n (s.effAddr k.val)).2 k.val hk hn rfl, regOf_val]

theorem sameMemBut_storeRegs (n : Nat) : sameMemBut ((List.range n).map s.effAddr) s (s.storeRegs n) := by
  refine fun a ha => (s.memRead_storeRegs n a).1 fun k hk heq => ha ?_
  rw [heq]
  exact List.mem_map_of_mem (List.mem_map_of_mem (List.mem_range.2 hk))

/-! ## Loading a block of registers -/

theorem sameButRegsPc_loadRegs_advance (n : Nat) : sameButRegsPc s (s.loadRegs n).advance := by
  rw [State.loadRegs_eq]
  exact sameButRegsPc_withRegsPc s _ _

end

/-! ## The statements -/

/-- Settles O42: the addresses I, I + 1 and I + 2 are three different ones, so no digit is written over. -/
theorem decimalDigitsAreStored : Obligations.DecimalDigitsAreStored := by
  unfold Obligations.DecimalDigitsAreStored
  intro x s
  refine ⟨decodeWord_ofNat_familyF .ldB 0x33 (decodeFamilyF_of_byte 0x33) x, _, rfl, ?_, ?_, ?_, rfl,
    sameButStoresPc_advance s rfl (sameMemBut_three_memWrites s _ _ _ _ _ _)⟩
  · rw [← hundredsDigit_toNat, ← State.effAddr]
    simp [State.translate_effAddr_inj]
  · rw [← tensDigit_toNat, ← State.effAddr]
    simp [State.translate_effAddr_inj]
  · rw [← onesDigit_toNat, ← State.effAddr]
    simp

/-- Settles O43: the block store of x + 1 registers, at most sixteen, so no later write meets an earlier one. -/
theorem registerBlockIsStored : Obligations.RegisterBlockIsStored := by
  unfold Obligations.RegisterBlockIsStored
  intro x s
  refine ⟨decodeWord_ofNat_familyF .ldMemStore 0x55 (decodeFamilyF_of_byte 0x55) x, _, rfl, fun k hk => ?_,
    congrArg (· + 2) (s.storeRegs_pc _), sameButStoresPc_advance s (s.storeRegs_eq _) (sameMemBut_storeRegs s _)⟩
  exact s.memRead_storeRegs_effAddr x.isLt (Nat.lt_succ_of_le hk)

/-- Settles O44: the block load of x + 1 registers, every byte read from the memory before. -/
theorem registerBlockIsLoaded : Obligations.RegisterBlockIsLoaded := by
  unfold Obligations.RegisterBlockIsLoaded
  intro x s
  refine ⟨decodeWord_ofNat_familyF .ldMemLoad 0x65 (decodeFamilyF_of_byte 0x65) x, _, rfl, fun k => ?_,
    congrArg (· + 2) (s.loadRegs_pc _), sameButRegsPc_loadRegs_advance s _⟩
  rw [State.advance_reg, s.reg_loadRegs (x.val + 1) x.isLt k, State.effAddr]
  simp only [Nat.lt_succ_iff]

/-- Settles O41: each of the three is one write of I; only the sum of `Fx1E` can wrap. -/
theorem addressRegisterWrites : Obligations.AddressRegisterWrites := by
  unfold Obligations.AddressRegisterWrites
  intro x nnn s
  refine ⟨decodeWord_encode_ldI nnn, decodeWord_ofNat_familyF .addI 0x1E (decodeFamilyF_of_byte 0x1E) x,
    decodeWord_ofNat_familyF .ldF 0x29 (decodeFamilyF_of_byte 0x29) x,
    ⟨_, rfl, zextAddr_toNat nnn, rfl, sameButIPc_setI_advance s _⟩,
    ⟨_, rfl, ?_, rfl, sameButIPc_setI_advance s _⟩,
    ⟨_, rfl, glyphAddr_toNat (s.reg x), rfl, sameButIPc_setI_advance s _⟩⟩
  rw [State.advance_i, State.setI_i, BitVec.toNat_add, zextByte_toNat]

end Machine
end Sys2Proof
end

section
/-! Display (44_display.md R190 to R194): clearing the screen, what one draw answers for the pixels and VF, and what two draws
of one sprite have in common. -/

namespace Sys2Proof.Machine

/-! ## One draw (R191, R192) -/

section
variable (s : State) (x y : Reg) (n : Fin 16)

/-- A draw flips the pixels under the sprite's 1-bits. -/
theorem State.drawSprite_pixel_of_covers {r : Fin 32} {c : Fin 64} (h : s.spriteCovers x y n.val r c) :
    (s.drawSprite x y n.val).fb.pixel r c = !s.fb.pixel r c :=
  (Canvas.drawRows_pixel _ _ _ _ n.val n.isLt.le r c).1 ((spriteHits_iff_covers s x y n.val r c).2 h)

/-- A draw starts without a collision and ends with one exactly when some 1-bit lies over a lit pixel. -/
theorem State.drawSprite_collision :
    (s.drawSprite x y n.val).collision = true ↔
      ∃ r c, s.spriteCovers x y n.val r c ∧ s.fb.pixel r c = true := by
  rw [State.drawSprite, Canvas.drawRows_collision _ _ _ _ _ n.isLt.le]
  simp only [spriteHits_iff_covers, Bool.false_eq_true, false_or]

end

theorem bool01_eq_one_iff (b : Bool) : bool01 b = 1 ↔ b = true := by
  cases b <;> decide

section
variable {s t : State} {x y : Reg} {n : Fin 16} (h : exec (.drw x y n) s = .next t)
include h

theorem exec_drw_fb : t.fb = (s.drawSprite x y n.val).fb := by
  cases h; rfl

theorem exec_drw_vf :
    t.reg vf = 1 ↔ ∃ r c, s.spriteCovers x y n.val r c ∧ s.fb.pixel r c = true := by
  cases h
  rw [State.advance_reg, State.reg_setReg, if_pos rfl, bool01_eq_one_iff, State.drawSprite_collision]

end

/-! ## Two draws of one sprite (R194) -/

/-- What a sprite covers depends on I, the bytes of memory and the two coordinates. -/
theorem spriteCovers_congr {s u : State} {x y : Reg} (hi : u.i = s.i) (hmem : sameMem s u)
    (hx : u.reg x = s.reg x) (hy : u.reg y = s.reg y) (n : Nat) (r : Fin 32) (c : Fin 64) :
    u.spriteCovers x y n r c ↔ s.spriteCovers x y n r c := by
  simp only [State.spriteCovers, hi, hmem _, hx, hy]

/-! ## The statements -/

/-- Settles O50: the second draw covers the same pixels, and finds each of them as the first left it, flipped. -/
theorem secondDrawCollidesIffFirstLitAPixel : Obligations.SecondDrawCollidesIffFirstLitAPixel := by
  unfold Obligations.SecondDrawCollidesIffFirstLitAPixel
  intro x y n s t u w hfirst hscreen hi hmem hx hy hsecond
  have hflipped {r c} (hc : s.spriteCovers x y n.val r c) : u.fb.pixel r c = !s.fb.pixel r c := by
    rw [hscreen, exec_drw_fb hfirst, s.drawSprite_pixel_of_covers x y n hc]
  rw [exec_drw_vf hsecond]
  refine exists₂_congr fun r c => ?_
  rw [spriteCovers_congr hi hmem hx hy]
  refine and_congr_right fun hc => ?_
  rw [hflipped hc, Bool.not_eq_true']

/-- Settles O47: the cleared framebuffer has no lit pixel, and no field but FB and PC is written. -/
theorem clearUnlightsEveryPixel : Obligations.ClearUnlightsEveryPixel := by
  unfold Obligations.ClearUnlightsEveryPixel
  refine ⟨by decide, fun s => ⟨_, rfl, fun r c => Framebuffer.pixel_clear r c, rfl, ?_⟩⟩
  simp [sameRegsBut, sameMem, sameStack, sameTimers, sameControl]

end Sys2Proof.Machine
end

section
/-! Timers (45_keys_timers.md R214 to R216): what a step of a known word executes, what a timer write leaves unchanged, and the
three loads, whose step reads or writes its timer after the countdown. -/

namespace Sys2Proof.Machine

/-- Outside a fault, the converse of `step_cases` for a word the decoder knows (40_cycle.md R100). -/
theorem step_eq_exec_of_fetchWord {s : State} {w : Word} {i : Instr} (hfault : s.fault = none)
    (hfetch : s.fetchWord = w) (hdecode : decodeWord w = .ok i) : step s = exec i s.beforeExec := by
  simp only [step, execWord, hfault, hfetch, hdecode]

section
variable (s : State)

/-- Writing timers and PC only. -/
theorem sameButTimersPc_withTimersPc (dt st : Byte) (pc : Word) :
    sameButTimersPc s { s with dt := dt, st := st, pc := pc } := by
  obtain ⟨hregs, hi, hmem, hstack, -, hscreenControl⟩ := sameButPc_setPc s pc
  exact ⟨hregs, hi, hmem, hstack, hscreenControl⟩

/-- The sound output, as a condition on ST (10_state.md R47). -/
theorem State.soundActive_eq_decide : s.soundActive = decide (s.st ≠ 0) := by
  rw [State.soundActive, bne, beq_eq_decide, decide_not]

end

/-- Settles O53: one register write, of the DT the instruction executes with, which in a step is the counted-down one. -/
theorem delayTimerIsReadAfterCountdown : Obligations.DelayTimerIsReadAfterCountdown := by
  unfold Obligations.DelayTimerIsReadAfterCountdown
  intro x s
  have hdecode := decodeWord_ofNat_familyF .ldVxDt 0x07 (decodeFamilyF_of_byte 0x07) x
  refine ⟨hdecode, ⟨_, rfl, s.setReg_advance_spec x s.dt⟩, fun hfault hfetch =>
    ⟨_, step_eq_exec_of_fetchWord hfault hfetch hdecode, ?_⟩⟩
  obtain ⟨hx, -⟩ := s.beforeExec.setReg_advance_spec x s.beforeExec.dt
  rw [hx, State.beforeExec_dt, timerDown_toNat]

/-- Settles O54: each is one timer write, after the countdown, of a register the countdown leaves alone. -/
theorem timersAreSetAfterCountdown : Obligations.TimersAreSetAfterCountdown := by
  unfold Obligations.TimersAreSetAfterCountdown
  intro x s
  have hdecodeDt := decodeWord_ofNat_familyF .ldDtVx 0x15 (decodeFamilyF_of_byte 0x15) x
  have hdecodeSt := decodeWord_ofNat_familyF .ldStVx 0x18 (decodeFamilyF_of_byte 0x18) x
  exact ⟨hdecodeDt, hdecodeSt,
    ⟨_, rfl, rfl, rfl, rfl, sameButTimersPc_withTimersPc s _ _ _⟩,
    ⟨_, rfl, rfl, rfl, rfl, sameButTimersPc_withTimersPc s _ _ _⟩,
    fun hfault hfetch => ⟨_, step_eq_exec_of_fetchWord hfault hfetch hdecodeDt, rfl⟩,
    fun hfault hfetch => ⟨_, step_eq_exec_of_fetchWord hfault hfetch hdecodeSt, rfl,
      State.soundActive_eq_decide _⟩⟩

end Sys2Proof.Machine
end

section
/-! The decoder and the encoder as inverses (30_encoding.md R82 to R87): what each format's word decodes to, which word an
instruction was read from, and which words no instruction has. -/

namespace Sys2Proof

/-! ## Decoding an encoded word (R84, R85) -/

theorem decodeWord_encode_call (nnn : Addr12) : decodeWord (encode (.call nnn)) = .ok (.call nnn) := by
  obtain ⟨hop, hnnn⟩ := fields_encodeA 0x2 (by decide) nnn
  simp only [encode, decodeWord_of_family 0x2 hop, hnnn]

/-- A word `0nnn` other than the two that family 0 matches on all 16 bits: each of these two has its own nnn. -/
theorem decodeWord_encode_sys {nnn : Addr12} (hcls : nnn ≠ 0x0E0) (hret : nnn ≠ 0x0EE) :
    decodeWord (encode (.sys nnn)) = .ok (.sys nnn) := by
  obtain ⟨hop, hnnn⟩ := fields_encodeA 0x0 (by decide) nnn
  have hne0 : encodeA 0x0 nnn ≠ 0x00E0#16 := fun h => hcls (by rw [← hnnn, h]; decide)
  have hneE : encodeA 0x0 nnn ≠ 0x00EE#16 := fun h => hret (by rw [← hnnn, h]; decide)
  simp only [encode, decodeWord_of_family 0x0 hop, decodeFamily0, if_neg hne0, if_neg hneE, hnnn]

theorem decodeWord_encode_rnd (x : Reg) (kk : Byte) : decodeWord (encode (.rnd x kk)) = .ok (.rnd x kk) := by
  obtain ⟨hop, hx, hkk, -⟩ := fields_encodeXK 0xC (by decide) x kk
  simp only [encode, decodeWord_of_family 0xC hop, hx, hkk]

/-- Family 5 does not examine the low nibble f (R86). -/
theorem decodeWord_encodeXY_five (x y : Reg) (f : Fin 16) : decodeWord (encodeXY 0x5 x y f) = .ok (.seReg x y) := by
  obtain ⟨hop, hx, hy, -⟩ := fields_encodeXY 0x5 (by decide) x y f
  simp only [decodeWord_of_family 0x5 hop, hx, hy]

/-- Family 9 does not examine the low nibble f (R86). -/
theorem decodeWord_encodeXY_nine (x y : Reg) (f : Fin 16) : decodeWord (encodeXY 0x9 x y f) = .ok (.sneReg x y) := by
  obtain ⟨hop, hx, hy, -⟩ := fields_encodeXY 0x9 (by decide) x y f
  simp only [decodeWord_of_family 0x9 hop, hx, hy]

theorem decodeWord_encode_drw (x y : Reg) (n : Fin 16) :
    decodeWord (encode (.drw x y n)) = .ok (.drw x y n) := by
  obtain ⟨hop, hx, hy, hn, -⟩ := fields_encodeXY 0xD (by decide) x y n
  simp only [encode, decodeWord_of_family 0xD hop, hx, hy, hn]

/-- A word `Exkk`, where family E reads function kk as the instruction `mk` of the register field. -/
theorem decodeWord_encodeXK_familyE (mk : Reg → Instr) (kk : Byte)
    (hmk : ∀ {w : Word}, field w 7 0 = kk.toNat → decodeFamilyE w = .ok (mk (fieldX w))) (x : Reg) :
    decodeWord (encodeXK 0xE x kk) = .ok (mk x) := by
  obtain ⟨hop, hx, -, hkk⟩ := fields_encodeXK 0xE (by decide) x kk
  simp only [decodeWord_of_family 0xE hop, hmk hkk, hx]

/-- Every well-formed instruction, format by format. -/
theorem decodeWord_encode {i : Instr} (h : i.wellFormed = true) : decodeWord (encode i) = .ok i := by
  cases i with
  | cls | ret => decide
  | sys nnn =>
    obtain ⟨hcls, hret⟩ : nnn ≠ 0x0E0 ∧ nnn ≠ 0x0EE := by simpa [Instr.wellFormed] using h
    exact decodeWord_encode_sys hcls hret
  | jp nnn => exact decodeWord_encode_jp nnn
  | call nnn => exact decodeWord_encode_call nnn
  | seImm x kk => exact decodeWord_encode_seImm x kk
  | sneImm x kk => exact decodeWord_encode_sneImm x kk
  | seReg x y => exact decodeWord_encodeXY_five x y 0x0
  | ldImm x kk => exact decodeWord_encode_ldImm x kk
  | addImm x kk => exact decodeWord_encode_addImm x kk
  | ldReg x y => exact decodeWord_encodeXY_eight .ldReg 0x0 (decodeFamily8_of_nibble 0x0) x y
  | orReg x y => exact decodeWord_encodeXY_eight .orReg 0x1 (decodeFamily8_of_nibble 0x1) x y
  | andReg x y => exact decodeWord_encodeXY_eight .andReg 0x2 (decodeFamily8_of_nibble 0x2) x y
  | xorReg x y => exact decodeWord_encodeXY_eight .xorReg 0x3 (decodeFamily8_of_nibble 0x3) x y
  | addReg x y => exact decodeWord_encodeXY_eight .addReg 0x4 (decodeFamily8_of_nibble 0x4) x y
  | sub x y => exact decodeWord_encodeXY_eight .sub 0x5 (decodeFamily8_of_nibble 0x5) x y
  | shr x y => exact decodeWord_encodeXY_eight .shr 0x6 (decodeFamily8_of_nibble 0x6) x y
  | subn x y => exact decodeWord_encodeXY_eight .subn 0x7 (decodeFamily8_of_nibble 0x7) x y
  | shl x y => exact decodeWord_encodeXY_eight .shl 0xE (decodeFamily8_of_nibble 0xE) x y
  | sneReg x y => exact decodeWord_encodeXY_nine x y 0x0
  | ldI nnn => exact decodeWord_encode_ldI nnn
  | jpV0 nnn => exact decodeWord_encode_jpV0 nnn
  | rnd x kk => exact decodeWord_encode_rnd x kk
  | drw x y n => exact decodeWord_encode_drw x y n
  | skp x => exact decodeWord_encodeXK_familyE .skp 0x9E (decodeFamilyE_of_byte 0x9E) x
  | sknp x => exact decodeWord_encodeXK_familyE .sknp 0xA1 (decodeFamilyE_of_byte 0xA1) x
  | ldVxDt x => exact decodeWord_encodeXK_familyF .ldVxDt 0x07 (decodeFamilyF_of_byte 0x07) x
  | ldK x => exact decodeWord_encodeXK_familyF .ldK 0x0A (decodeFamilyF_of_byte 0x0A) x
  | ldDtVx x => exact decodeWord_encodeXK_familyF .ldDtVx 0x15 (decodeFamilyF_of_byte 0x15) x
  | ldStVx x => exact decodeWord_encodeXK_familyF .ldStVx 0x18 (decodeFamilyF_of_byte 0x18) x
  | addI x => exact decodeWord_encodeXK_familyF .addI 0x1E (decodeFamilyF_of_byte 0x1E) x
  | ldF x => exact decodeWord_encodeXK_familyF .ldF 0x29 (decodeFamilyF_of_byte 0x29) x
  | ldB x => exact decodeWord_encodeXK_familyF .ldB 0x33 (decodeFamilyF_of_byte 0x33) x
  | ldMemStore x => exact decodeWord_encodeXK_familyF .ldMemStore 0x55 (decodeFamilyF_of_byte 0x55) x
  | ldMemLoad x => exact decodeWord_encodeXK_familyF .ldMemLoad 0x65 (decodeFamilyF_of_byte 0x65) x

/-- Settles O20: the word's two bytes make up the word again, so both readings are `decodeWord_encode`. -/
theorem decodeOfEncodeIsTheInstruction : Obligations.DecodeOfEncodeIsTheInstruction := by
  unfold Obligations.DecodeOfEncodeIsTheInstruction
  intro i rest hwf
  rw [decode_two, wordOfBytes_hiByte_loByte]
  exact ⟨decodeWord_encode hwf, decodeWord_encode hwf⟩

/-! ## Encoding a decoded word, format by format -/

section
variable {w : Word} {op : Nat} (hop : field w 15 12 = op)
include hop

theorem encodeA_fieldNnn : encodeA op (fieldNnn w) = w := by
  subst hop
  have hw := w.isLt
  refine BitVec.eq_of_toNat_eq ?_
  simp only [encodeA, fieldNnn, field, BitVec.toNat_ofNat]
  omega

theorem encodeXK_fieldX {kk : Byte} (hkk : field w 7 0 = kk.toNat) : encodeXK op (fieldX w) kk = w := by
  subst hop
  have hw := w.isLt
  refine BitVec.eq_of_toNat_eq ?_
  simp only [encodeXK, ← hkk, fieldX, field, Fin.val_ofNat, BitVec.toNat_ofNat]
  omega

theorem encodeXK_fieldX_fieldKk : encodeXK op (fieldX w) (fieldKk w) = w :=
  encodeXK_fieldX hop (Nat.mod_eq_of_lt (Nat.mod_lt _ (by decide))).symm

/-- With the low nibble f in place of the word's own. -/
theorem encodeXY_fieldX_fieldY_toNat (f : Fin 16) :
    (encodeXY op (fieldX w) (fieldY w) f).toNat = w.toNat / 16 * 16 + f.val := by
  subst hop
  have hw := w.isLt
  have hf := f.isLt
  simp only [encodeXY, fieldX, fieldY, field, Fin.val_ofNat, BitVec.toNat_ofNat]
  omega

theorem encodeXY_fieldX_fieldY {f : Fin 16} (hf : field w 3 0 = f.val) :
    encodeXY op (fieldX w) (fieldY w) f = w := by
  refine BitVec.eq_of_toNat_eq ?_
  rw [encodeXY_fieldX_fieldY_toNat hop, ← hf]
  simp only [field]
  omega

end

/-! ## The families (R84 to R87) -/

section
variable {w : Word} {i : Instr}

theorem encode_decodeFamily0 (hop : field w 15 12 = 0x0) :
    (decodeFamily0 w).wellFormed = true ∧ encode (decodeFamily0 w) = w := by
  have hw : encodeA 0x0 (fieldNnn w) = w := encodeA_fieldNnn hop
  unfold decodeFamily0
  split
  next hcls => exact ⟨rfl, hcls.symm⟩
  next hcls =>
    split
    next hret => exact ⟨rfl, hret.symm⟩
    next hret =>
      have hne0 : fieldNnn w ≠ 0x0E0#12 := fun h => hcls (by rw [← hw, h]; decide)
      have hneE : fieldNnn w ≠ 0x0EE#12 := fun h => hret (by rw [← hw, h]; decide)
      exact ⟨by simp [Instr.wellFormed, hne0, hneE], hw⟩

theorem encode_of_decodeFamily8 (hop : field w 15 12 = 0x8) (h : decodeFamily8 w = .ok i) :
    i.wellFormed = true ∧ encode i = w := by
  unfold decodeFamily8 at h
  split at h <;> cases h
  all_goals
    refine ⟨rfl, encodeXY_fieldX_fieldY hop ?_⟩
    assumption

theorem encode_of_decodeFamilyE (hop : field w 15 12 = 0xE) (h : decodeFamilyE w = .ok i) :
    i.wellFormed = true ∧ encode i = w := by
  unfold decodeFamilyE at h
  split at h <;> cases h
  all_goals
    refine ⟨rfl, encodeXK_fieldX hop ?_⟩
    assumption

theorem encode_of_decodeFamilyF (hop : field w 15 12 = 0xF) (h : decodeFamilyF w = .ok i) :
    i.wellFormed = true ∧ encode i = w := by
  unfold decodeFamilyF at h
  split at h <;> cases h
  all_goals
    refine ⟨rfl, encodeXK_fieldX hop ?_⟩
    assumption

theorem fieldN_val (w : Word) : (fieldN w).val = field w 3 0 := Nat.mod_eq_of_lt (Nat.mod_lt _ (by decide))

theorem field_family_lt (w : Word) : field w 15 12 < 16 := Nat.mod_lt _ (by decide)

theorem decodeFamily8_error_iff :
    (∃ e, decodeFamily8 w = .error e) ↔ field w 3 0 ∈ [0x8, 0x9, 0xA, 0xB, 0xC, 0xD, 0xF] := by
  have hlt : field w 3 0 < 16 := Nat.mod_lt _ (by decide)
  generalize hk : field w 3 0 = k at hlt
  rw [decodeFamily8_of_nibble k hk]
  interval_cases k <;> simp

theorem decodeFamilyE_error_iff : (∃ e, decodeFamilyE w = .error e) ↔ field w 7 0 ∉ [0x9E, 0xA1] := by
  unfold decodeFamilyE
  split <;> simp_all

theorem decodeFamilyF_error_iff :
    (∃ e, decodeFamilyF w = .error e) ↔
      field w 7 0 ∉ [0x07, 0x0A, 0x15, 0x18, 0x1E, 0x29, 0x33, 0x55, 0x65] := by
  unfold decodeFamilyF
  split <;> simp_all

end

/-- Settles O21: each format's fields make up the word again, but for the nibble families 5 and 9 do not examine. -/
theorem encodeOfDecodeIsTheWord : Obligations.EncodeOfDecodeIsTheWord := by
  unfold Obligations.EncodeOfDecodeIsTheWord
  intro w i h
  unfold decodeWord at h
  split at h
  case h_1 hop => cases h; simpa [hop] using encode_decodeFamily0 hop
  case h_2 hop | h_3 hop | h_11 hop | h_12 hop =>
    cases h; simpa [hop] using ⟨rfl, encodeA_fieldNnn hop⟩
  case h_4 hop | h_5 hop | h_7 hop | h_8 hop | h_13 hop =>
    cases h; simpa [hop] using ⟨rfl, encodeXK_fieldX_fieldKk hop⟩
  case h_6 hop | h_10 hop =>
    cases h; simpa [hop] using ⟨rfl, encodeXY_fieldX_fieldY_toNat hop 0x0⟩
  case h_9 hop => simpa [hop] using encode_of_decodeFamily8 hop h
  case h_14 hop =>
    cases h; simpa [hop] using ⟨rfl, encodeXY_fieldX_fieldY hop (fieldN_val w).symm⟩
  case h_15 hop => simpa [hop] using encode_of_decodeFamilyE hop h
  case h_16 =>
    have hlt := field_family_lt w
    simp only [imp_false] at *
    have hop : field w 15 12 = 0xF := by omega
    simpa [hop] using encode_of_decodeFamilyF hop h

/-- Outside families 5 and 9 an instruction is read from its encoding only. -/
theorem encode_eq_of_decodeWord {w : Word} {i : Instr} (h : decodeWord w = .ok i)
    (hse : ∀ x y, i ≠ .seReg x y) (hsne : ∀ x y, i ≠ .sneReg x y) : encode i = w := by
  obtain ⟨-, hw⟩ := encodeOfDecodeIsTheWord w i h
  split at hw
  next h59 =>
    rcases h59 with hop | hop
    · rw [decodeWord_of_family 5 hop] at h; cases h; exact absurd rfl (hse _ _)
    · rw [decodeWord_of_family 9 hop] at h; cases h; exact absurd rfl (hsne _ _)
  next => exact hw

/-- Settles O22: only families 8, E and F refuse a word, each by its function field. -/
theorem decoderRejectsExactlyUndefinedWords : Obligations.DecoderRejectsExactlyUndefinedWords := by
  unfold Obligations.DecoderRejectsExactlyUndefinedWords
  intro w
  have hlt := field_family_lt w
  rw [← decodeFamily8_error_iff, ← decodeFamilyE_error_iff, ← decodeFamilyF_error_iff]
  generalize hop : field w 15 12 = op at hlt
  rw [decodeWord_of_family op hop]
  interval_cases op <;> simp

end Sys2Proof
end

section
/-! What one instruction, and one step, can do to the state, said once; from it what every step keeps, who changes what, and
the three faults (40_cycle.md R100 to R110, 60_exceptions.md R230 to R237). -/

namespace Sys2Proof.Machine

/-! ## One instruction -/

/-- The next state of an instruction, by the state it writes besides PC; every field a case does not name is as before. -/
inductive ExecEffect (s : State) : Instr → State → Prop
  /-- registers and PC only, or nothing at all -/
  | registers {i} (hret : i ≠ .ret) (hcall : ∀ nnn, i ≠ .call nnn) (v : Vector Byte 16) (pc : Word) :
    ExecEffect s i { s with v := v, pc := pc }
  /-- I (R24) -/
  | address {i} (hi : (∃ nnn, i = .ldI nnn) ∨ (∃ x, i = .addI x) ∨ ∃ x, i = .ldF x) (a : Word) :
    ExecEffect s i (s.setI a).advance
  /-- the framebuffer (R30), and VF by a draw -/
  | screen {i} (hi : i = .cls ∨ ∃ x y n, i = .drw x y n) (fb : Framebuffer) (v : Vector Byte 16) :
    ExecEffect s i ({ s with fb := fb, v := v } : State).advance
  /-- a timer (R26, R27) -/
  | timers {i} (hi : (∃ x, i = .ldDtVx x) ∨ ∃ x, i = .ldStVx x) (dt st : Byte) :
    ExecEffect s i ({ s with dt := dt, st := st } : State).advance
  /-- three bytes of memory (R174) -/
  | digits (x : Reg) (a b c : Byte) :
    ExecEffect s (.ldB x)
      (((s.memWrite (s.effAddr 0) a).memWrite (s.effAddr 1) b).memWrite (s.effAddr 2) c).advance
  /-- a block of memory (R175) -/
  | block (x : Reg) : ExecEffect s (.ldMemStore x) (s.storeRegs (x.val + 1)).advance
  /-- SP down (R121) -/
  | returned (h : s.sp.val ≠ 0) : ExecEffect s .ret (s.pop.setPc (s.top + 2))
  /-- StackUnderflow (R234) -/
  | underflow (h : s.sp.val = 0) : ExecEffect s .ret (s.raiseFault .stackUnderflow (encode .ret))
  /-- SP up, and entry SP (R124) -/
  | called (nnn : Addr12) (h : s.sp.val ≠ stackCapacity) :
    ExecEffect s (.call nnn) ((s.push s.pc).setPc (zextAddr nnn))
  /-- StackOverflow (R233) -/
  | overflow (nnn : Addr12) (h : s.sp.val = stackCapacity) :
    ExecEffect s (.call nnn) (s.raiseFault .stackOverflow (encode (.call nnn)))

/-- A state that is another one but for registers and PC. -/
theorem ExecEffect.of_eq {s t : State} {i : Instr} (hret : i ≠ .ret) (hcall : ∀ nnn, i ≠ .call nnn)
    (h : t = { s with v := t.v, pc := t.pc }) : ExecEffect s i t :=
  h ▸ .registers hret hcall t.v t.pc

theorem exec_ret_eq (s : State) : exec .ret s = .next (if s.sp.val = 0 then
    s.raiseFault .stackUnderflow (encode .ret) else s.pop.setPc (s.top + 2)) :=
  (apply_ite Host.Outcome.next _ _ _).symm

theorem exec_call_eq (nnn : Addr12) (s : State) : exec (.call nnn) s = .next (if s.sp.val = 16 then
    s.raiseFault .stackOverflow (encode (.call nnn)) else (s.push s.pc).setPc (zextAddr nnn)) :=
  (apply_ite Host.Outcome.next _ _ _).symm

/-- Every instruction answers a next state, and none has another effect than these. -/
theorem exec_effect (i : Instr) (s : State) : ∃ t, exec i s = .next t ∧ ExecEffect s i t := by
  cases i with
  | ret =>
    refine ⟨_, exec_ret_eq s, ?_⟩
    split
    next h => exact .underflow h
    next h => exact .returned h
  | call nnn =>
    refine ⟨_, exec_call_eq nnn s, ?_⟩
    split
    next h => exact .overflow nnn h
    next h => exact .called nnn h
  | ldI | addI | ldF => exact ⟨_, rfl, .address (by simp) _⟩
  | cls | drw => exact ⟨_, rfl, .screen (by simp) _ _⟩
  | ldDtVx | ldStVx => exact ⟨_, rfl, .timers (by simp) _ _⟩
  | ldB x => exact ⟨_, rfl, .digits x _ _ _⟩
  | ldMemStore x => exact ⟨_, rfl, .block x⟩
  | ldMemLoad => exact ⟨_, rfl, .of_eq (by simp) (by simp) (by rw [State.loadRegs_eq]; rfl)⟩
  | ldK x => exact ⟨_, rfl, .of_eq (by simp) (by simp) (s.waitKey_eq x)⟩
  | sub | shr | subn | shl =>
    exact ⟨_, rfl, .of_eq (by simp) (by simp) (by rw [State.flagThenResult_eq_setReg_setReg]; rfl)⟩
  | _ => exact ⟨_, rfl, .registers (by simp) (by simp) _ _⟩

theorem ExecEffect.of_exec {i : Instr} {s t : State} (h : exec i s = .next t) : ExecEffect s i t := by
  obtain ⟨t', h', heffect⟩ := exec_effect i s
  cases h.symm.trans h'
  exact heffect

section
variable {s t : State} {i : Instr} (h : ExecEffect s i t)
include h

/-- No instruction writes KEYS, a parameter, or the model's record of inputs (R28, R31, R44). -/
theorem ExecEffect.keeps_inputs : t.keys = s.keys ∧ t.variant = s.variant ∧ t.vfOrder = s.vfOrder ∧
    t.rnd = s.rnd ∧ t.inputs = s.inputs ∧ t.tick = s.tick := by
  cases h with
  | block => simp
  | _ => exact ⟨rfl, rfl, rfl, rfl, rfl, rfl⟩

theorem ExecEffect.address_of_ne (hne : t.i ≠ s.i) :
    (∃ nnn, i = .ldI nnn) ∨ (∃ x, i = .addI x) ∨ ∃ x, i = .ldF x := by
  cases h with
  | address hi => exact hi
  | block => exact absurd (State.storeRegs_i _ _) hne
  | _ => exact absurd rfl hne

theorem ExecEffect.screen_of_ne (hne : t.fb ≠ s.fb) : i = .cls ∨ ∃ x y n, i = .drw x y n := by
  cases h with
  | screen hi => exact hi
  | block => exact absurd (State.storeRegs_fb _ _) hne
  | _ => exact absurd rfl hne

theorem ExecEffect.store_of_ne {a : Nat} (hne : t.memRead a ≠ s.memRead a) :
    (∃ x k, i = .ldB x ∧ k < 3 ∧ translate a = translate (s.effAddr k)) ∨
    ∃ x k, i = .ldMemStore x ∧ k ≤ x.val ∧ translate a = translate (s.effAddr k) := by
  cases h with
  | digits x b c d =>
    refine .inl ⟨x, ?_⟩
    by_contra hno
    refine hne (sameMemBut_three_memWrites s _ _ _ b c d a fun ha => hno ?_)
    obtain ha | ha | ha : translate a = translate (s.effAddr 0) ∨ translate a = translate (s.effAddr 1) ∨
        translate a = translate (s.effAddr 2) := by simpa using ha
    exacts [⟨0, rfl, by decide, ha⟩, ⟨1, rfl, by decide, ha⟩, ⟨2, rfl, by decide, ha⟩]
  | block x =>
    refine .inr ⟨x, ?_⟩
    by_contra hno
    exact hne ((s.memRead_storeRegs _ a).1 fun k hk ha => hno ⟨k, rfl, Nat.le_of_lt_succ hk, ha⟩)
  | _ => exact absurd rfl hne

theorem ExecEffect.stackPointer_of_ne (hne : t.sp ≠ s.sp) :
    (∃ nnn, i = .call nnn ∧ t.sp.val = s.sp.val + 1) ∨ (i = .ret ∧ t.sp.val + 1 = s.sp.val) := by
  cases h with
  | called nnn hsp =>
    have hlt : s.sp.val < 16 := by have := s.sp.isLt; simp only [stackCapacity] at hsp; omega
    exact .inl ⟨nnn, rfl, s.push_sp_val s.pc hlt⟩
  | returned hsp =>
    have hpos : 0 < s.sp.val := Nat.pos_of_ne_zero hsp
    exact .inr ⟨rfl, by rw [State.setPc_sp, s.pop_sp_val hpos]; omega⟩
  | block => exact absurd (State.storeRegs_sp _ _) hne
  | _ => exact absurd rfl hne

theorem ExecEffect.stackEntry_of_ne {k : Fin 16} (hne : t.stackEntry k ≠ s.stackEntry k) :
    k.val = s.sp.val ∧ ∃ nnn, i = .call nnn := by
  cases h with
  | called nnn =>
    refine ⟨?_, nnn, rfl⟩
    by_contra hk
    exact hne (by rw [State.setPc_stackEntry, State.stackEntry_push, if_neg hk])
  | block => exact absurd (State.storeRegs_stackEntry _ _ _) hne
  | _ => exact absurd rfl hne

theorem ExecEffect.wf (hwf : Memory.wf s.mem = true) : Memory.wf t.mem = true := by
  cases h with
  | digits => exact State.memWrite_wf _ _ _ (State.memWrite_wf _ _ _ (State.memWrite_wf _ _ _ hwf))
  | block => exact s.storeRegs_wf _ hwf
  | _ => exact hwf

theorem ExecEffect.fault_eq (hret : i ≠ .ret) (hcall : ∀ nnn, i ≠ .call nnn) : t.fault = s.fault := by
  cases h with
  | returned | underflow => exact absurd rfl hret
  | called nnn | overflow nnn => exact absurd rfl (hcall nnn)
  | block => exact State.storeRegs_fault _ _
  | _ => rfl

/-- Only CALL and RET raise a fault (R235). -/
theorem ExecEffect.raises (h0 : s.fault = none) (hf : t.fault ≠ none) :
    (i = .ret ∧ s.sp.val = 0 ∧ t = s.raiseFault .stackUnderflow (encode i)) ∨
    ∃ nnn, i = .call nnn ∧ s.sp.val = stackCapacity ∧ t = s.raiseFault .stackOverflow (encode i) := by
  cases h with
  | underflow hsp => exact .inl ⟨rfl, hsp, rfl⟩
  | overflow nnn hsp => exact .inr ⟨nnn, rfl, hsp, rfl⟩
  | block => exact absurd ((State.storeRegs_fault _ _).trans h0) hf
  | _ => exact absurd h0 hf

end

/-! ## One step -/

/-- While a fault is latched (R236). -/
theorem step_of_fault {s : State} (h : s.fault ≠ none) : step s = .next s := by
  obtain ⟨r, hr⟩ := Option.ne_none_iff_exists'.mp h
  simp only [step, hr]

/-- Outside a fault (R100). -/
theorem step_of_no_fault {s : State} (h : s.fault = none) : step s = execWord s.fetchWord s.beforeExec := by
  simp only [step, h]

theorem execWord_of_error {w : Word} {e : Reject} (h : decodeWord w = .error e) (s : State) :
    execWord w s = .next (s.raiseFault .decodeError w) := by
  simp only [execWord, h]

/-- A step does nothing while a fault is latched; else it latches DecodeError, or has the effect of the decoded instruction. -/
theorem step_effect {s t : State} (h : step s = .next t) :
    (s.fault ≠ none ∧ t = s) ∨
    (s.fault = none ∧ ∃ e, decodeWord s.fetchWord = .error e ∧
      t = s.beforeExec.raiseFault .decodeError s.fetchWord) ∨
    (s.fault = none ∧ ∃ i, decodeWord s.fetchWord = .ok i ∧ ExecEffect s.beforeExec i t) := by
  by_cases h0 : s.fault = none
  · obtain ⟨e, he, ht⟩ | ⟨i, hi, hexec⟩ := step_cases h0 h
    · exact .inr (.inl ⟨h0, e, he, ht⟩)
    · exact .inr (.inr ⟨h0, i, hi, .of_exec hexec⟩)
  · cases (step_of_fault h0).symm.trans h
    exact .inl ⟨h0, rfl⟩

/-- What neither the phases before execution nor DecodeError write changes by an instruction only. -/
theorem ExecEffect.of_step_of_ne {α : Type} (f : State → α) {s t : State} (hstep : step s = .next t)
    (hbefore : f s.beforeExec = f s) (hraise : ∀ w, f (s.beforeExec.raiseFault .decodeError w) = f s)
    (hne : f t ≠ f s) :
    ∃ i, decodeWord s.fetchWord = .ok i ∧ ExecEffect s.beforeExec i t ∧ f t ≠ f s.beforeExec := by
  obtain ⟨-, rfl⟩ | ⟨-, e, -, rfl⟩ | ⟨-, i, hi, heffect⟩ := step_effect hstep
  · exact absurd rfl hne
  · exact absurd (hraise _) hne
  · exact ⟨i, hi, heffect, hbefore ▸ hne⟩

/-- A step that latches a fault raises it with PC and the fetched word, on the state the phases before execution leave, and
for a cause (R231 to R234). -/
theorem step_raises {s t : State} (h0 : s.fault = none) (h : step s = .next t) (hf : t.fault ≠ none) :
    ∃ kind, t = s.beforeExec.raiseFault kind s.fetchWord ∧
      FaultRecord.explains { kind := kind, pc := s.pc, word := s.fetchWord } s := by
  obtain ⟨e, he, rfl⟩ | ⟨i, hi, hexec⟩ := step_cases h0 h
  · exact ⟨.decodeError, rfl, rfl, rfl, .inl ⟨rfl, e, he⟩⟩
  · obtain ⟨rfl, hsp, rfl⟩ | ⟨nnn, rfl, hsp, rfl⟩ := (ExecEffect.of_exec hexec).raises h0 hf
    · have hw := encode_eq_of_decodeWord hi (by simp) (by simp)
      exact ⟨.stackUnderflow, by rw [hw], rfl, rfl, .inr (.inr ⟨rfl, hw.symm, hsp⟩)⟩
    · have hw := encode_eq_of_decodeWord hi (by simp) (by simp)
      exact ⟨.stackOverflow, by rw [hw], rfl, rfl, .inr (.inl ⟨rfl, ⟨nnn, hi⟩, hsp⟩)⟩

/-- What a step that raises a fault commits: the countdown and the key sample (R108). -/
theorem State.raiseFault_beforeExec_frame (s : State) (kind : FaultKind) (w : Word) :
    sameRegsBut [] s (s.beforeExec.raiseFault kind w) ∧ (s.beforeExec.raiseFault kind w).i = s.i ∧
    sameMem s (s.beforeExec.raiseFault kind w) ∧ sameStack s (s.beforeExec.raiseFault kind w) ∧
    sameScreen s (s.beforeExec.raiseFault kind w) ∧
    (s.beforeExec.raiseFault kind w).dt.toNat = s.dt.toNat - 1 ∧
    (s.beforeExec.raiseFault kind w).st.toNat = s.st.toNat - 1 ∧
    (s.beforeExec.raiseFault kind w).keys = s.nextInput.keys :=
  ⟨fun _ _ => rfl, rfl, fun _ => rfl, ⟨rfl, fun _ => rfl⟩, fun _ _ => rfl, timerDown_toNat _, timerDown_toNat _, rfl⟩

/-! ## The invariant -/

theorem step_wf {s t : State} (hwf : Memory.wf s.mem = true) (h : step s = .next t) : Memory.wf t.mem = true := by
  obtain ⟨-, rfl⟩ | ⟨-, e, -, rfl⟩ | ⟨-, i, -, heffect⟩ := step_effect h
  exacts [hwf, hwf, heffect.wf hwf]

/-- Settles O58: every step keeps the canonical form of memory; a fault it latches explains the state before the step, whose
PC, word there and SP the fault leaves; a fault latched before stops the step. -/
theorem everyStepKeepsTheInvariant : Obligations.EveryStepKeepsTheInvariant := by
  unfold Obligations.EveryStepKeepsTheInvariant
  rintro s t ⟨hwf, hlatch⟩ hstep
  by_cases h0 : s.fault = none
  · refine ⟨step_wf hwf hstep, fun r hr => ?_⟩
    obtain ⟨kind, rfl, hexplains⟩ := step_raises h0 hstep (by simp [hr])
    cases hr
    exact hexplains
  · cases (step_of_fault h0).symm.trans hstep
    exact ⟨hwf, hlatch⟩

/-! ## Every step has a next state, and which fault it latches -/

/-- Settles O5: halted, undefined word, or an instruction, which `exec_effect` says answers a next state. -/
theorem everyStepAnswersNextState : Obligations.EveryStepAnswersNextState := by
  unfold Obligations.EveryStepAnswersNextState
  intro s
  by_cases h0 : s.fault = none
  · cases hw : decodeWord s.fetchWord with
    | error e => exact ⟨_, (step_of_no_fault h0).trans (execWord_of_error hw _)⟩
    | ok i =>
      obtain ⟨t, ht, -⟩ := exec_effect i s.beforeExec
      exact ⟨t, (step_eq_exec_of_fetchWord h0 rfl hw).trans ht⟩
  · exact ⟨s, step_of_fault h0⟩

/-- Settles O6: CALL and RET raise a fault exactly at their bound of SP, an undefined word always, any other word never. -/
theorem stepFaultsExactlyForTheThreeCauses : Obligations.StepFaultsExactlyForTheThreeCauses := by
  unfold Obligations.StepFaultsExactlyForTheThreeCauses
  intro s t h0 hstep
  split
  next e he =>
    rw [step_of_no_fault h0, execWord_of_error he] at hstep
    cases hstep; rfl
  next nnn hi =>
    have hw := encode_eq_of_decodeWord hi (by simp) (by simp)
    rw [step_eq_exec_of_fetchWord h0 rfl hi, exec_call_eq, hw] at hstep
    cases hstep
    rw [apply_ite State.fault]
    simp [h0]
  next hi =>
    have hw := encode_eq_of_decodeWord hi (by simp) (by simp)
    rw [step_eq_exec_of_fetchWord h0 rfl hi, exec_ret_eq, hw] at hstep
    cases hstep
    rw [apply_ite State.fault]
    simp [h0]
  next i hcall hret hi =>
    rw [step_eq_exec_of_fetchWord h0 rfl hi] at hstep
    exact ((ExecEffect.of_exec hstep).fault_eq hret hcall).trans h0

/-- Settles O7: whatever the cause, the fault is raised on the state the phases before execution leave. -/
theorem faultingStepKeepsEverythingElse : Obligations.FaultingStepKeepsEverythingElse := by
  unfold Obligations.FaultingStepKeepsEverythingElse
  intro s t h0 hstep hf
  obtain ⟨kind, rfl, -⟩ := step_raises h0 hstep hf
  exact ⟨rfl, s.raiseFault_beforeExec_frame kind s.fetchWord⟩

/-! ## Who may change what (R110) -/

/-- Settles O10: the effect on I. -/
theorem addressRegisterChangesOnlyByItsWriters : Obligations.AddressRegisterChangesOnlyByItsWriters := by
  unfold Obligations.AddressRegisterChangesOnlyByItsWriters
  intro s t hstep hne
  obtain ⟨i, hi, heffect, hne⟩ := ExecEffect.of_step_of_ne State.i hstep rfl (fun _ => rfl) hne
  exact ⟨i, hi, heffect.address_of_ne hne⟩

/-- Settles O11: the effect on the framebuffer. -/
theorem screenChangesOnlyByDisplayInstructions : Obligations.ScreenChangesOnlyByDisplayInstructions := by
  unfold Obligations.ScreenChangesOnlyByDisplayInstructions
  intro s t r c hstep hne
  obtain ⟨i, hi, heffect, hne⟩ := ExecEffect.of_step_of_ne (·.fb.pixel r c) hstep rfl (fun _ => rfl) hne
  obtain rfl | ⟨x, y, n, rfl⟩ := heffect.screen_of_ne fun h => hne (by simp only [h])
  · exact .inl hi
  · exact .inr ⟨x, y, n, hi⟩

/-- Settles O12: the effect on a byte of memory; I is the one the instruction executes with. -/
theorem memoryChangesOnlyByStores : Obligations.MemoryChangesOnlyByStores := by
  unfold Obligations.MemoryChangesOnlyByStores
  intro s t a hstep hne
  obtain ⟨i, hi, heffect, hne⟩ := ExecEffect.of_step_of_ne (·.memRead a) hstep rfl (fun _ => rfl) hne
  obtain ⟨x, k, rfl, hk, ha⟩ | ⟨x, k, rfl, hk, ha⟩ := heffect.store_of_ne hne
  · exact .inl ⟨x, k, hi, hk, ha⟩
  · exact .inr ⟨x, k, hi, hk, ha⟩

/-- Settles O13: the effects on SP and on the entries. -/
theorem stackChangesOnlyByCallAndReturn : Obligations.StackChangesOnlyByCallAndReturn := by
  unfold Obligations.StackChangesOnlyByCallAndReturn
  intro s t hstep
  refine ⟨fun hne => ?_, fun k hne => ?_⟩
  · obtain ⟨i, hi, heffect, hne⟩ := ExecEffect.of_step_of_ne State.sp hstep rfl (fun _ => rfl) hne
    obtain ⟨nnn, rfl, hsp⟩ | ⟨rfl, hsp⟩ := heffect.stackPointer_of_ne hne
    · exact .inl ⟨nnn, hi, hsp⟩
    · exact .inr ⟨hi, hsp⟩
  · obtain ⟨i, hi, heffect, hne⟩ := ExecEffect.of_step_of_ne (·.stackEntry k) hstep rfl (fun _ => rfl) hne
    obtain ⟨hk, nnn, rfl⟩ := heffect.stackEntry_of_ne hne
    exact ⟨hk, nnn, hi⟩

/-- Settles O15: neither the phases before execution, nor a fault, nor an instruction writes a parameter. -/
theorem parametersNeverChange : Obligations.ParametersNeverChange := by
  unfold Obligations.ParametersNeverChange
  intro s t hstep
  obtain ⟨-, rfl⟩ | ⟨-, e, -, rfl⟩ | ⟨-, i, -, heffect⟩ := step_effect hstep
  · exact ⟨rfl, rfl⟩
  · exact ⟨rfl, rfl⟩
  · obtain ⟨-, hvariant, horder, -⟩ := heffect.keeps_inputs
    exact ⟨hvariant, horder⟩

end Sys2Proof.Machine
end

section
/-! Noninterference (10_state.md R22, R31, R35, R45; 42_alu.md R141; 43_index_memory.md R170): who writes VF, and who reads KEYS,
the random byte, VF_ORDER and the high bits of I. -/

namespace Sys2Proof.Machine

/-! ## VF -/

theorem State.waitKey_reg_of_ne (s : State) {x r : Reg} (h : r ≠ x) : (s.waitKey x).reg r = s.reg r := by
  unfold State.waitKey
  split <;> simp [h]

/-- Settles O14: apart from the writers of VF an instruction writes no register, or one that is not VF, or (`Fx65`) a block
that ends below VF. -/
theorem vfChangesOnlyByItsWriters : Obligations.VfChangesOnlyByItsWriters := by
  unfold Obligations.VfChangesOnlyByItsWriters
  intro i s t hexec hvf
  cases i with
  | addReg | sub | shr | subn | shl | drw => cases hvf
  | ldImm x | addImm x | rnd x | ldReg x | orReg x | andReg x | xorReg x | ldVxDt x =>
    have hx : vf ≠ x := fun h => by simp [writesVf, ← h] at hvf
    cases hexec
    rw [State.advance_reg, State.reg_setReg, if_neg hx]
  | ldK x =>
    have hx : vf ≠ x := fun h => by simp [writesVf, ← h] at hvf
    cases hexec
    exact s.waitKey_reg_of_ne hx
  | ldMemLoad x =>
    have hx : x ≠ vf := fun h => by simp [writesVf, h] at hvf
    have hlt : x.val < vf.val := Nat.lt_of_le_of_ne (Nat.le_of_lt_succ x.isLt) (Fin.val_ne_of_ne hx)
    cases hexec
    rw [State.advance_reg, s.reg_loadRegs _ x.isLt, if_neg (Nat.not_lt.2 hlt)]
  | ldMemStore => cases hexec; exact s.storeRegs_reg _ vf
  | ret => rw [exec_ret_eq] at hexec; cases hexec; split <;> rfl
  | call => rw [exec_call_eq] at hexec; cases hexec; split <;> rfl
  | _ => cases hexec; rfl

/-! ## KEYS, the random byte and VF_ORDER -/

section
variable (s : State) (k : BitVec 16) (b : Byte) (o : VfOrder)

/-- Another key snapshot, random byte and VF_ORDER. -/
def State.withReadings : State := { s with keys := k, rnd := b, vfOrder := o }

theorem State.storeRegs_withReadings (n : Nat) :
    (s.withReadings k b o).storeRegs n = (s.storeRegs n).withReadings k b o := by
  induction n with
  | zero => rfl
  | succ n ih => rw [State.storeRegs, State.storeRegs, ih]; rfl

theorem State.loadRegs_withReadings (n : Nat) :
    (s.withReadings k b o).loadRegs n = (s.loadRegs n).withReadings k b o := by
  induction n with
  | zero => rfl
  | succ n ih => rw [State.loadRegs, State.loadRegs, ih]; rfl

/-- The key scan reads KEYS only. -/
theorem State.firstKeyFrom_congr {s u : State} (h : u.keys = s.keys) (n k : Nat) :
    u.firstKeyFrom n k = s.firstKeyFrom n k := by
  induction n generalizing k with
  | zero => rfl
  | succ n ih =>
    have hk : u.keyPressed k = s.keyPressed k := by rw [State.keyPressed, State.keyPressed, h]
    rw [State.firstKeyFrom, State.firstKeyFrom, hk, ih]

theorem State.waitKey_withReadings (x : Reg) :
    (s.withReadings s.keys b o).waitKey x = (s.waitKey x).withReadings s.keys b o := by
  have hkey : (s.withReadings s.keys b o).firstKey = s.firstKey := State.firstKeyFrom_congr rfl 16 0
  unfold State.waitKey
  rw [hkey]
  cases s.firstKey <;> rfl

variable {s o}

theorem State.secondOperand_withReadings {r : Reg} (h : r ≠ vf ∨ o = s.vfOrder) (flag : Byte) :
    (s.withReadings k b o).secondOperand r flag = s.secondOperand r flag := by
  obtain h | rfl := h
  · rw [State.secondOperand, State.secondOperand, if_neg fun h' => h h'.2, if_neg fun h' => h h'.2]; rfl
  · rfl

theorem State.flagThenResult_withReadings {x y : Reg} (hx : x ≠ vf ∨ o = s.vfOrder) (hy : y ≠ vf ∨ o = s.vfOrder)
    (flag result : Byte → Byte → Byte) :
    (s.withReadings k b o).flagThenResult x y flag result =
      (s.flagThenResult x y flag result).withReadings k b o := by
  rw [State.flagThenResult_eq_secondOperand, State.flagThenResult_eq_secondOperand,
    State.secondOperand_withReadings k b hx, State.secondOperand_withReadings k b hy]
  rfl

variable {k b}

/-- Each of the three may be replaced where the instruction does not read it. -/
theorem exec_withReadings {i : Instr} {t : State} (hk : readsKeys i = false ∨ k = s.keys)
    (hb : readsRnd i = false ∨ b = s.rnd) (ho : vfOrderSensitive i = false ∨ o = s.vfOrder)
    (h : exec i s = .next t) : exec i (s.withReadings k b o) = .next (t.withReadings k b o) := by
  cases i with
  | skp | sknp => obtain hk | rfl := hk; cases hk; cases h; rfl
  | ldK x =>
    obtain hk | rfl := hk
    · cases hk
    · cases h; exact congrArg _ (s.waitKey_withReadings b o x)
  | rnd => obtain hb | rfl := hb; cases hb; cases h; rfl
  | sub x y | subn x y =>
    have hxy : (x ≠ vf ∨ o = s.vfOrder) ∧ (y ≠ vf ∨ o = s.vfOrder) := by
      simpa [vfOrderSensitive, ← and_or_right] using ho
    cases h
    exact congrArg (fun u : State => (.next u.advance : Result)) (State.flagThenResult_withReadings k b hxy.1 hxy.2 _ _)
  | shr x y | shl x y =>
    have hx : x ≠ vf ∨ o = s.vfOrder := by simpa [vfOrderSensitive] using ho
    cases h
    exact congrArg (fun u : State => (.next u.advance : Result)) (State.flagThenResult_withReadings k b hx hx _ _)
  | ldMemStore x => cases h; exact congrArg (fun u : State => (.next u.advance : Result)) (s.storeRegs_withReadings k b o _)
  | ldMemLoad x => cases h; exact congrArg (fun u : State => (.next u.advance : Result)) (s.loadRegs_withReadings k b o _)
  | ret =>
    simp only [exec, execRet] at h
    split at h <;> cases h
    next hsp => exact if_pos hsp
    next hsp => exact if_neg hsp
  | call =>
    simp only [exec, execCall] at h
    split at h <;> cases h
    next hsp => exact if_pos hsp
    next hsp => exact if_neg hsp
  | _ => cases h; rfl

end

/-- Settles O16: KEYS and the random byte replaced by themselves, which no instruction writes. -/
theorem vfOrderMattersOnlyForVfOperands : Obligations.VfOrderMattersOnlyForVfOperands := by
  unfold Obligations.VfOrderMattersOnlyForVfOperands
  intro i s t o ho hexec
  obtain ⟨hkeys, -, -, hrnd, -⟩ := (ExecEffect.of_exec hexec).keeps_inputs
  simpa only [State.withReadings, ← hkeys, ← hrnd] using
    exec_withReadings (k := s.keys) (b := s.rnd) (.inr rfl) (.inr rfl) (.inl ho) hexec

/-- Settles O17: KEYS and VF_ORDER replaced by themselves, which no instruction writes. -/
theorem randomByteReadOnlyByRnd : Obligations.RandomByteReadOnlyByRnd := by
  unfold Obligations.RandomByteReadOnlyByRnd
  intro i s t b hb hexec
  obtain ⟨hkeys, -, horder, -⟩ := (ExecEffect.of_exec hexec).keeps_inputs
  simpa only [State.withReadings, ← hkeys, ← horder] using
    exec_withReadings (k := s.keys) (o := s.vfOrder) (.inr rfl) (.inl hb) (.inr rfl) hexec

/-- Settles O18: the random byte and VF_ORDER replaced by themselves, which no instruction writes. -/
theorem keysReadOnlyByKeyInstructions : Obligations.KeysReadOnlyByKeyInstructions := by
  unfold Obligations.KeysReadOnlyByKeyInstructions
  intro i s t k hk hexec
  obtain ⟨-, -, horder, hrnd, -⟩ := (ExecEffect.of_exec hexec).keeps_inputs
  simpa only [State.withReadings, ← hrnd, ← horder] using
    exec_withReadings (b := s.rnd) (o := s.vfOrder) (.inl hk) (.inr rfl) (.inr rfl) hexec

/-! ## The high bits of I -/

section
variable (s : State) {j : Word} (hj : j.toNat % 4096 = s.i.toNat % 4096)
include hj

theorem State.translate_effAddr_setI (k : Nat) : translate ((s.setI j).effAddr k) = translate (s.effAddr k) := by
  simp only [translate, memSize, State.effAddr, State.setI_i]
  omega

theorem State.memRead_effAddr_setI (k : Nat) : (s.setI j).memRead ((s.setI j).effAddr k) = s.memRead (s.effAddr k) :=
  congrArg (Memory.read s.mem) (s.translate_effAddr_setI hj k)

/-- The write may follow other writes: `u` is the state it is done on. -/
theorem State.memWrite_effAddr_setI (u : State) (k : Nat) (x : Byte) :
    (u.setI j).memWrite ((s.setI j).effAddr k) x = (u.memWrite (s.effAddr k) x).setI j := by
  rw [State.memWrite, s.translate_effAddr_setI hj]; rfl

theorem State.storeRegs_setI (n : Nat) : (s.setI j).storeRegs n = (s.storeRegs n).setI j := by
  induction n with
  | zero => rfl
  | succ n ih => rw [State.storeRegs, State.storeRegs, ih, s.memWrite_effAddr_setI hj]; rfl

theorem State.loadRegs_setI (n : Nat) : (s.setI j).loadRegs n = (s.loadRegs n).setI j := by
  induction n with
  | zero => rfl
  | succ n ih => rw [State.loadRegs, State.loadRegs, ih, s.memRead_effAddr_setI hj]; rfl

theorem State.drawSprite_setI (x y : Reg) (n : Nat) : (s.setI j).drawSprite x y n = s.drawSprite x y n := by
  simp only [State.drawSprite, s.memRead_effAddr_setI hj]; rfl

end

/-- Settles O19: I is used through the translator only, and no instruction of the four writes it. -/
theorem highBitsOfINeverAffectAccess : Obligations.HighBitsOfINeverAffectAccess := by
  unfold Obligations.HighBitsOfINeverAffectAccess
  intro i s t j haccess hj hexec
  change exec i (s.setI j) = .next (t.setI j)
  cases i with
  | drw x y n =>
    cases hexec
    simp only [exec, execDrw, s.drawSprite_setI hj]; rfl
  | ldB x =>
    cases hexec
    simp only [exec, execLdB, s.memWrite_effAddr_setI hj]; rfl
  | ldMemStore x => cases hexec; exact congrArg (fun u : State => (.next u.advance : Result)) (s.storeRegs_setI hj _)
  | ldMemLoad x => cases hexec; exact congrArg (fun u : State => (.next u.advance : Result)) (s.loadRegs_setI hj _)
  | _ => cases haccess

end Sys2Proof.Machine
end

section
/-! The no-op, register skips, calls and returns, and the self-jump (41_control_flow.md R121 to R128, 70_reset_and_hazards.md
R271). -/

namespace Sys2Proof

theorem encode_sys_eq_ofNat (nnn : Addr12) : encode (.sys nnn) = BitVec.ofNat 16 nnn.toNat :=
  congrArg (BitVec.ofNat 16) (Nat.zero_add _)

/-- Format XYN with the low nibble last, as the statements spell their words. -/
theorem encodeXY_eq_ofNat_nibble_last (op : Nat) (x y : Reg) (f : Fin 16) :
    encodeXY op x y f = BitVec.ofNat 16 (op * 0x1000 + 0x100 * x.val + 0x10 * y.val + f.val) :=
  congrArg (BitVec.ofNat 16) (by omega)

namespace Machine

/-- Settles O24: the advance writes PC only. -/
theorem sysOnlyAdvances : Obligations.SysOnlyAdvances := by
  unfold Obligations.SysOnlyAdvances
  intro nnn s
  exact ⟨fun hcls hret => encode_sys_eq_ofNat nnn ▸ decodeWord_encode_sys hcls hret,
    s.advance, rfl, rfl, sameButPc_setPc s _⟩

/-- Settles O28: SE and SNE are one `skip_if`, on equality and on its negation, and families 5 and 9 decode whatever f. -/
theorem registerSkips : Obligations.RegisterSkips := by
  unfold Obligations.RegisterSkips
  intro x y f s
  refine ⟨encodeXY_eq_ofNat_nibble_last 0x5 x y f ▸ decodeWord_encodeXY_five x y f,
    encodeXY_eq_ofNat_nibble_last 0x9 x y f ▸ decodeWord_encodeXY_nine x y f,
    ⟨s.skipIf (s.reg x == s.reg y), rfl, ?_, sameButPc_skipIf s _⟩,
    ⟨s.skipIf (s.reg x != s.reg y), rfl, ?_, sameButPc_skipIf s _⟩⟩
  · simp only [State.skipIf_pc_eq_add, beq_iff_eq]
  · simp only [State.skipIf_pc_eq_add, bne_iff_ne, ne_eq, ite_not]

/-! ## Calls and returns -/

section
variable (s : State)

theorem sameButStackPc_withStackPc (stack : Vector Word 16) (sp : Fin 17) (pc : Word) :
    sameButStackPc s { s with stack := stack, sp := sp, pc := pc } := by
  obtain ⟨hregs, hi, hmem, -, hrest⟩ := sameButPc_setPc s pc
  exact ⟨hregs, hi, hmem, hrest⟩

theorem sameButFault_raiseFault (kind : FaultKind) (w : Word) : sameButFault s (s.raiseFault kind w) := by
  simp [sameButFault, sameRegsBut, sameMem, sameStack, sameTimers, sameScreen]

theorem State.top_eq_stackEntry {k : Fin 16} (h : s.sp.val = k.val + 1) : s.top = s.stackEntry k := by
  have hk : Fin.ofNat 16 (s.sp.val - 1) = k := by rw [h, Nat.add_sub_cancel]; exact Fin.ofNat_val_eq_self k
  rw [State.top, hk]

variable {s}

theorem exec_call_of_lt (nnn : Addr12) (h : s.sp.val < 16) :
    exec (.call nnn) s = .next ((s.push s.pc).setPc (zextAddr nnn)) := by
  rw [exec_call_eq, if_neg (Nat.ne_of_lt h)]

theorem exec_call_of_full (nnn : Addr12) (h : s.sp.val = 16) :
    exec (.call nnn) s = .next (s.raiseFault .stackOverflow (encode (.call nnn))) := by
  rw [exec_call_eq, if_pos h]

theorem exec_ret_of_succ {k : Fin 16} (h : s.sp.val = k.val + 1) :
    exec .ret s = .next (s.pop.setPc (s.stackEntry k + 2)) := by
  rw [exec_ret_eq, if_neg (by omega), s.top_eq_stackEntry h]

theorem exec_ret_of_empty (h : s.sp.val = 0) :
    exec .ret s = .next (s.raiseFault .stackUnderflow (encode .ret)) := by
  rw [exec_ret_eq, if_pos h]

end

/-- Settles O29: a push and a jump, or the fault, whose word is the encoding of the CALL. -/
theorem callPushesOrOverflows : Obligations.CallPushesOrOverflows := by
  unfold Obligations.CallPushesOrOverflows
  intro nnn s
  refine ⟨decodeWord_encode_call nnn, fun hlt => ?_, fun hfull => ?_⟩
  · exact ⟨_, exec_call_of_lt nnn hlt, zextAddr_toNat nnn, s.push_sp_val s.pc hlt, s.stackEntry_push s.pc,
      sameButStackPc_withStackPc s _ _ _⟩
  · exact ⟨_, exec_call_of_full nnn hfull, rfl, sameButFault_raiseFault s _ _⟩

/-- Settles O30: a pop and a jump past the popped address, or the fault. -/
theorem returnPopsOrUnderflows : Obligations.ReturnPopsOrUnderflows := by
  unfold Obligations.ReturnPopsOrUnderflows
  refine ⟨by decide, fun s => ⟨fun k hk => ?_, fun hempty => ?_⟩⟩
  · have hsp : s.pop.sp.val = k.val := by rw [s.pop_sp_val (by omega), hk, Nat.add_sub_cancel]
    exact ⟨_, exec_ret_of_succ hk, rfl, hsp, fun _ => rfl, sameButStackPc_withStackPc s _ _ _⟩
  · exact ⟨_, exec_ret_of_empty hempty, rfl, sameButFault_raiseFault s _ _⟩

/-- Settles O31: the RET finds SP one above the CALL's, so it pops the entry the CALL wrote. -/
theorem returnResumesAfterItsCall : Obligations.ReturnResumesAfterItsCall := by
  unfold Obligations.ReturnResumesAfterItsCall
  rintro nnn s t u w hlt hcall ⟨hsp, hentry⟩ hret
  rw [exec_call_of_lt nnn hlt] at hcall
  cases hcall
  have hsucc : u.sp.val = s.sp.val + 1 := by rw [hsp]; exact s.push_sp_val s.pc hlt
  have htop : u.stackEntry ⟨s.sp.val, hlt⟩ = s.pc := by
    rw [hentry, State.setPc_stackEntry, State.stackEntry_push, if_pos rfl]
  rw [exec_ret_of_succ (k := ⟨s.sp.val, hlt⟩) hsucc, htop] at hret
  cases hret
  refine ⟨rfl, Fin.ext ?_⟩
  rw [State.setPc_sp, u.pop_sp_val (by omega), hsucc, Nat.add_sub_cancel]

/-! ## The self-jump -/

/-- Settles O32: the jump's target is PC modulo 4096, where the fetch reads the same word again. -/
theorem selfJumpOnlyCountsTimers : Obligations.SelfJumpOnlyCountsTimers := by
  unfold Obligations.SelfJumpOnlyCountsTimers
  intro s h0 hjump
  have hpc : (zextAddr (BitVec.ofNat 12 (translate s.pc.toNat))).toNat = s.pc.toNat % 4096 := by
    rw [zextAddr_toNat, BitVec.toNat_ofNat]
    exact Nat.mod_mod _ _
  refine ⟨_, step_eq_exec_of_fetchWord h0 rfl hjump, hpc, ⟨h0, ?_⟩, timerDown_toNat _, timerDown_toNat _, rfl,
    fun _ _ => rfl, rfl, fun _ => rfl, ⟨rfl, fun _ => rfl⟩, fun _ _ => rfl, rfl, rfl⟩
  rw [State.atSelfJump, State.fetchWord_setPc_of_mod (by rw [hpc]; exact Nat.mod_mod _ _), State.setPc_pc, hpc]
  exact hjump.trans (by rw [← translate_translate]; rfl)

end Machine
end Sys2Proof
end

section
/-! The random byte and the bytes of memory (42_alu.md R153, 20_memory.md R61, R70, 43_index_memory.md R175, R176). -/

namespace Sys2Proof.Machine

/-- Settles O39: the one register written gets the masked byte. -/
theorem randomByteIsMasked : Obligations.RandomByteIsMasked := by
  unfold Obligations.RandomByteIsMasked
  intro x kk s
  obtain ⟨hx, hframe⟩ := s.setReg_advance_spec x (s.rnd &&& kk)
  refine ⟨encodeXK_eq_ofNat 0xC x kk ▸ decodeWord_encode_rnd x kk, _, rfl, fun k => ?_, hframe⟩
  rw [hx, BitVec.getLsbD_and]

/-- Settles O40: the port reduces the addresses of writes and of reads. -/
theorem memoryPortUsesAddressesModulo4096 : Obligations.MemoryPortUsesAddressesModulo4096 := by
  unfold Obligations.MemoryPortUsesAddressesModulo4096
  exact fun s a b x => ⟨s.memRead_memWrite a b x, (s.memRead_mod b).symm⟩

/-- Addresses equal modulo 4096 read one byte (R61). -/
theorem State.memRead_of_mod_eq (s : State) {a b : Nat} (h : a % 4096 = b % 4096) : s.memRead a = s.memRead b := by
  rw [← s.memRead_mod a, h, s.memRead_mod]

/-- Settles O45: byte I + k of the stored block is register k, and the load puts it there again. -/
theorem blockLoadUndoesBlockStore : Obligations.BlockLoadUndoesBlockStore := by
  unfold Obligations.BlockLoadUndoesBlockStore
  intro x s t u w hstore hi hmem hload k hk
  have hlt : k.val < x.val + 1 := Nat.lt_succ_of_le hk
  have haddr : u.effAddr k.val = s.effAddr k.val := by rw [State.effAddr, hi, State.effAddr]
  cases hstore
  cases hload
  rw [State.advance_reg, u.reg_loadRegs _ x.isLt, if_pos hlt, hmem, haddr, State.advance_memRead,
    s.memRead_storeRegs_effAddr x.isLt hlt]

/-- Settles O46: the next fetch reads bytes I + k and I + k + 1 of the stored block. -/
theorem storedBytesAreFetchedNext : Obligations.StoredBytesAreFetchedNext := by
  unfold Obligations.StoredBytesAreFetchedNext
  intro s t x k h0 hdecode hk haddr hstep
  have hsucc : (k + 1).val = k.val + 1 := Fin.val_add_one_of_lt' (by have := x.isLt; omega)
  have hread {a : Nat} {j : Reg} (hj : j.val < x.val + 1) (ha : a % 4096 = (s.i.toNat + j.val) % 4096) :
      (s.beforeExec.storeRegs (x.val + 1)).memRead a = s.reg j :=
    (State.memRead_of_mod_eq _ ha).trans (s.beforeExec.memRead_storeRegs_effAddr x.isLt hj)
  rw [step_eq_exec_of_fetchWord h0 rfl hdecode] at hstep
  cases hstep
  have hpc : (s.beforeExec.storeRegs (x.val + 1)).advance.pc = s.pc + 2 := by simp
  rw [State.fetchWord_eq, hpc, wordOfBytes_toNat, State.advance_memRead, State.advance_memRead,
    hread (j := k) (by omega) (by bv_omega), hread (j := k + 1) (by omega) (by rw [hsucc]; bv_omega)]

end Sys2Proof.Machine
end

section
/-! The sprite draw (44_display.md R191 to R194): every pixel and VF after one draw, and the screen after two. -/

namespace Sys2Proof.Machine

/-- A draw leaves the pixels beside the sprite's 1-bits alone. -/
theorem State.drawSprite_pixel_of_not_covers (s : State) (x y : Reg) (n : Fin 16) {r : Fin 32} {c : Fin 64}
    (h : ¬ s.spriteCovers x y n.val r c) : (s.drawSprite x y n.val).fb.pixel r c = s.fb.pixel r c :=
  (Canvas.drawRows_pixel _ _ _ _ n.val n.isLt.le r c).2 (mt (spriteHits_iff_covers s x y n.val r c).1 h)

/-- Settles O48: the pixels and the collision of the sprite engine, the collision as VF. -/
theorem drawFlipsCoveredPixelsAndReportsCollision : Obligations.DrawFlipsCoveredPixelsAndReportsCollision := by
  unfold Obligations.DrawFlipsCoveredPixelsAndReportsCollision
  intro x y n s
  refine ⟨encodeXY_eq_ofNat_nibble_last 0xD x y n ▸ decodeWord_encode_drw x y n, _, rfl,
    fun r c => s.drawSprite_pixel_of_covers x y n, fun r c => s.drawSprite_pixel_of_not_covers x y n,
    (exec_drw_vf rfl).2, fun hno => ?_, rfl, fun r hr => ?_, rfl, fun _ => rfl, ⟨rfl, fun _ => rfl⟩, ⟨rfl, rfl⟩,
    ⟨rfl, rfl, rfl, rfl, rfl, rfl, rfl⟩⟩
  · have hcollision : (s.drawSprite x y n.val).collision = false :=
      Bool.eq_false_iff.2 (mt (s.drawSprite_collision x y n).1 hno)
    rw [State.advance_reg, State.reg_setReg, if_pos rfl, hcollision]; rfl
  · rw [State.advance_reg, State.reg_setReg, if_neg (by simpa using hr), State.setFb_reg]

/-- Settles O49: both draws cover the same pixels, and a pixel flipped twice is as before. -/
theorem drawingTwiceRestoresTheScreen : Obligations.DrawingTwiceRestoresTheScreen := by
  unfold Obligations.DrawingTwiceRestoresTheScreen
  intro x y n s t u w hfirst hscreen hi hmem hx hy hsecond r c
  have hcovers := spriteCovers_congr hi hmem hx hy n.val r c
  rw [exec_drw_fb hsecond]
  by_cases hc : s.spriteCovers x y n.val r c
  · rw [u.drawSprite_pixel_of_covers x y n (hcovers.2 hc), hscreen, exec_drw_fb hfirst,
      s.drawSprite_pixel_of_covers x y n hc, Bool.not_not]
  · rw [u.drawSprite_pixel_of_not_covers x y n (mt hcovers.1 hc), hscreen, exec_drw_fb hfirst,
      s.drawSprite_pixel_of_not_covers x y n hc]

end Sys2Proof.Machine
end

section
/-! Keys (45_keys_timers.md R210 to R213): the two key skips and the wait for a key. -/

namespace Sys2Proof

/-- `decodeWord_encodeXK_familyE` with the word spelled as the statements do. -/
theorem decodeWord_ofNat_familyE (mk : Reg → Instr) (kk : Byte)
    (hmk : ∀ {w : Word}, field w 7 0 = kk.toNat → decodeFamilyE w = .ok (mk (fieldX w))) (x : Reg) :
    decodeWord (BitVec.ofNat 16 (0xE000 + kk.toNat + 0x100 * x.val)) = .ok (mk x) :=
  encodeXK_eq_ofNat_fixed_first 0xE x kk ▸ decodeWord_encodeXK_familyE mk kk hmk x

namespace Machine

/-- Settles O51: SKP and SKNP are one `skip_if`, on the key and on its negation. -/
theorem keySkips : Obligations.KeySkips := by
  unfold Obligations.KeySkips
  intro x s
  refine ⟨decodeWord_ofNat_familyE .skp 0x9E (decodeFamilyE_of_byte 0x9E) x,
    decodeWord_ofNat_familyE .sknp 0xA1 (decodeFamilyE_of_byte 0xA1) x,
    ⟨_, rfl, State.skipIf_pc_eq_add s _, sameButPc_skipIf s _⟩, ⟨_, rfl, ?_, sameButPc_skipIf s _⟩⟩
  simp only [State.skipIf_pc_eq_add, Bool.not_eq_true', ← Bool.not_eq_true, ite_not, State.keyPressed, keyIndex]

section
variable {s : State}

theorem State.firstKey_eq_some {k : Nat} (hk : k < 16) (hpressed : s.keyPressed k = true)
    (hlow : ∀ j, j < k → s.keyPressed j = false) : s.firstKey = some k := by
  have hspec := s.firstKeyFrom_spec 16 0
  rw [State.firstKey]
  split at hspec
  next j hj =>
    obtain ⟨-, -, hjpressed, hjlow⟩ := hspec
    have hle : ¬ j < k := fun h => by simp [hlow j h] at hjpressed
    have hge : ¬ k < j := fun h => by simp [hjlow k (Nat.zero_le k) h] at hpressed
    rw [hj, show j = k by omega]
  next => simp [hspec k (Nat.zero_le k) (by omega)] at hpressed

theorem State.firstKey_eq_none (h : s.keys = 0) : s.firstKey = none := by
  have hspec := s.firstKeyFrom_spec 16 0
  rw [State.firstKey]
  split at hspec
  next j hj =>
    obtain ⟨-, -, hjpressed, -⟩ := hspec
    simp [State.keyPressed, h] at hjpressed
  next hnone => exact hnone

theorem exec_ldK_of_firstKey_some {k : Nat} (h : s.firstKey = some k) (x : Reg) :
    exec (.ldK x) s = .next (s.setReg x (BitVec.ofNat 8 k)).advance := by
  simp only [exec, execLdK, State.waitKey, h]

theorem exec_ldK_of_firstKey_none (h : s.firstKey = none) (x : Reg) : exec (.ldK x) s = .next s := by
  simp only [exec, execLdK, State.waitKey, h]

end

/-- Settles O52: the scan finds the lowest pressed key, or none where KEYS is 0. -/
theorem keyWaitTakesLowestPressedKey : Obligations.KeyWaitTakesLowestPressedKey := by
  unfold Obligations.KeyWaitTakesLowestPressedKey
  intro x s
  refine ⟨decodeWord_ofNat_familyF .ldK 0x0A (decodeFamilyF_of_byte 0x0A) x, fun k hk hpressed hlow => ?_,
    fun hnone => ?_⟩
  · obtain ⟨hx, hframe⟩ := s.setReg_advance_spec x (BitVec.ofNat 8 k)
    refine ⟨_, exec_ldK_of_firstKey_some (State.firstKey_eq_some hk hpressed hlow) x, ?_, hframe⟩
    rw [hx, BitVec.toNat_ofNat]
    omega
  · exact exec_ldK_of_firstKey_none (State.firstKey_eq_none hnone) x

end Machine
end Sys2Proof
end

section
/-! Reset, load and the outputs (10_state.md R42, R46 to R48; 70_reset_and_hazards.md R260). -/

namespace Sys2Proof.Machine

/-! ## Reset -/

theorem State.reset_reg (r : Reg) : State.reset.reg r = 0 := Vector.getElem_replicate _

theorem State.reset_stackEntry (k : Fin 16) : State.reset.stackEntry k = 0 := Vector.getElem_replicate _

/-- The font is written from address 0, so its byte at an address is the one of that index; past it memory is as unwritten. -/
theorem State.hostReset_memRead (s : State) (variant : Variant) (font : Vector Byte 80) (order : VfOrder) {a : Nat}
    (ha : a < 4096) : (s.hostReset variant font order).memRead a =
      if a ≤ 0x04F then (font.toList[a]?).getD (resetByte a) else resetByte a := by
  have haddr : translate a = a := Nat.mod_eq_of_lt ha
  change Memory.read (Memory.writeUpTo 0x04F [] 0x000 font.toList) (translate a) = _
  rw [haddr, Memory.read_writeUpTo, Nat.sub_zero, Memory.read]
  simp only [Nat.zero_le, true_and]

/-- Writing the reset contents over the reset contents lists nothing. -/
theorem Memory.writeUpTo_nil_of_eq_resetByte (last : Nat) {xs : List Byte} {a : Nat}
    (h : ∀ k (hk : k < xs.length), xs[k] = resetByte (a + k)) : Memory.writeUpTo last [] a xs = [] := by
  induction xs generalizing a with
  | nil => rfl
  | cons x xs ih =>
    have hx : x = resetByte a := h 0 (Nat.succ_pos _)
    have hwrite : Memory.write [] a x = [] := by simp [Memory.write, hx, Memory.erase]
    rw [Memory.writeUpTo, hwrite, ite_self]
    refine ih fun k hk => ?_
    rw [Nat.add_right_comm]
    exact h (k + 1) (Nat.succ_lt_succ hk)

theorem writeUpTo_defaultFont : Memory.writeUpTo 0x04F [] 0x000 defaultFont = [] :=
  Memory.writeUpTo_nil_of_eq_resetByte _ fun k hk => by
    rw [resetByte, Nat.zero_add, List.getElem?_eq_getElem hk, Option.getD_some]

/-- Settles O55: the fields of a reset, the font and the zeros past it, and the default font, which leaves nothing listed. -/
theorem resetLeavesTheSpecValues : Obligations.ResetLeavesTheSpecValues := by
  unfold Obligations.ResetLeavesTheSpecValues
  refine ⟨?_, fun font hfont => ?_⟩
  · rintro s variant font order t rfl
    refine ⟨rfl, rfl, State.reset_reg, by cases variant <;> rfl, rfl, rfl, State.reset_stackEntry, rfl, rfl,
      fun k => ?_, fun a hfont ha => ?_, Framebuffer.pixel_clear, rfl, rfl⟩
    · have hk := k.isLt
      rw [State.hostReset_memRead _ _ _ _ (by omega), if_pos (by omega)]
      simp
    · rw [State.hostReset_memRead _ _ _ _ ha, if_neg (by omega), resetByte_of_ge hfont]
  · rw [State.resetWith, hfont, writeUpTo_defaultFont]; rfl

/-- Settles O59: no fault is latched, and the font is a block write into the empty list. -/
theorem resetHasTheInvariant : Obligations.ResetHasTheInvariant := by
  unfold Obligations.ResetHasTheInvariant
  exact ⟨⟨rfl, fun _ h => nomatch h⟩, fun _ _ font _ =>
    ⟨Memory.wf_writeUpTo (by decide) font.toList 0x000 rfl, fun _ h => nomatch h⟩⟩

/-! ## Load and the outputs -/

/-- Settles O56: a block write that drops what lies above 0xFFF; no other field is written. -/
theorem loadWritesFromProgramStart : Obligations.LoadWritesFromProgramStart := by
  unfold Obligations.LoadWritesFromProgramStart
  rintro s bytes t rfl
  refine ⟨fun a ha => ?_, rfl, fun _ _ => rfl, rfl, ⟨rfl, fun _ => rfl⟩, ⟨rfl, rfl⟩, fun _ _ => rfl,
    ⟨rfl, rfl, rfl, rfl, rfl, rfl, rfl⟩⟩
  have haddr : translate a = a := Nat.mod_eq_of_lt ha
  have hlast : a ≤ 0xFFF := Nat.le_of_lt_succ ha
  simp only [State.memRead, State.load_mem, Memory.read_writeUpTo, haddr, hlast, and_true]

/-- Settles O57: row and column are the quotient and the remainder by 64, and each fault output reads one part of the latch. -/
theorem outputsShowTheState : Obligations.OutputsShowTheState := by
  unfold Obligations.OutputsShowTheState
  refine fun s => ⟨fun r c k hk => ?_, rfl, ?_, fun hnone => ?_, fun r hr => ?_⟩
  · have hc := c.isLt
    have hrow : Fin.ofNat 32 (k.val / 64) = r := Fin.ext (by have := r.isLt; simp only [Fin.val_ofNat]; omega)
    have hcol : Fin.ofNat 64 (k.val % 64) = c := Fin.ext (by simp only [Fin.val_ofNat]; omega)
    rw [State.fbOut, hrow, hcol]
  · rw [State.soundActive_eq_decide, decide_eq_true_iff]
  · simp only [State.faultKindOut, State.faultPcOut, State.faultWordOut, hnone, and_self]
  · simp only [State.faultKindOut, State.faultPcOut, State.faultWordOut, hr, true_and]
    cases r.kind <;> rfl

end Sys2Proof.Machine
end

section
/-! The step in full (40_cycle.md R100, 10_state.md R43 to R45): decoding from the two bytes at PC, an undefined word, the
halted state, and the host's step. -/

namespace Sys2Proof.Machine

/-- Settles O1: the two bytes decode as the fetched word. -/
theorem stepRunsDecodedInstruction : Obligations.StepRunsDecodedInstruction := by
  unfold Obligations.StepRunsDecodedInstruction
  intro s i h0 hdecode
  exact ⟨step_eq_exec_of_fetchWord h0 rfl ((decode_two _ _ _ _).1 hdecode), rfl⟩

/-- Settles O3: the fault is raised on the state the phases before execution leave. -/
theorem undefinedWordLatchesDecodeError : Obligations.UndefinedWordLatchesDecodeError := by
  unfold Obligations.UndefinedWordLatchesDecodeError
  intro s e h0 he
  obtain ⟨hregs, hi, hmem, hstack, hscreen, hdt, hst, hkeys⟩ :=
    s.raiseFault_beforeExec_frame .decodeError s.fetchWord
  exact ⟨_, (step_of_no_fault h0).trans (execWord_of_error he _), rfl, rfl, hregs, hi, hmem, hstack, hscreen, hdt, hst,
    hkeys, rfl, rfl⟩

/-- Settles O4: `step` looks at the latch first. -/
theorem haltedStepChangesNothing : Obligations.HaltedStepChangesNothing := by
  unfold Obligations.HaltedStepChangesNothing
  exact fun s hhalted => step_of_fault hhalted

/-- Outside a fault the sampled KEYS and the input queue left by the sample stand to the end of the step (R44). -/
theorem step_keys_inputs {s t : State} (h0 : s.fault = none) (h : step s = .next t) :
    t.keys = s.nextInput.keys ∧ t.inputs = s.inputs.tail := by
  obtain ⟨e, -, rfl⟩ | ⟨i, -, hexec⟩ := step_cases h0 h
  · exact ⟨rfl, rfl⟩
  · obtain ⟨hkeys, -, -, -, hinputs, -⟩ := (ExecEffect.of_exec hexec).keeps_inputs
    exact ⟨hkeys, hinputs⟩

/-- Settles O9: the host's step samples the inputs it lined up, and in the halted state it is no step at all. -/
theorem hostStepSamplesItsInputs : Obligations.HostStepSamplesItsInputs := by
  unfold Obligations.HostStepSamplesItsInputs
  intro keys rnd s
  refine ⟨fun h0 => ?_, fun hfault => hostStep_of_fault hfault keys rnd⟩
  rw [hostStep_of_no_fault h0]
  exact ⟨step_of_no_fault (s := s.withInput keys rnd) h0, fun t ht => step_keys_inputs (s := s.withInput keys rnd) h0 ht⟩

end Sys2Proof.Machine
end
